-- ==== Sys2Proof/Word.lean ====
section
/-! DEFINITION. The words of the command port (30_encoding.md R80, R81) and the numbers of the
block. Bits are numbered from 0 at the least significant end (00_scope.md R7). -/

namespace Sys2Proof

/-- A command word: always exactly 64 bits (30_encoding.md R80). -/
abbrev Word := BitVec 64

/-- An IEEE 754 binary32 pattern: the `f` field of a command and each half of an output frame
(40_numeric_primitives.md R112). -/
abbrev F32 := BitVec 32

/-- The 16-bit unsigned integer operand `a` of a command (30_encoding.md R81, R82). -/
abbrev Half := BitVec 16

/-- A byte, used only where a word is serialised (20_memory.md R61). -/
abbrev Byte := BitVec 8

/-- The numbers of the executable block: the rationals, where `+`, `-`, `*`, `/`, `floor` and every
comparison are exact. The spec's `NUM` is a parameter whose default is the exact reals (00_scope.md R4,
R6), which Machine/Exact.lean takes. DESIGN CHOICE, log 1. -/
abbrev Scalar := Rat

end Sys2Proof
end

