-- ==== Sys2Proof/Syntax.lean ====
section
/-! DEFINITION. The five commands of the block (30_encoding.md R83), one constructor per row of the
opcode table. Operands stand in the order of D0's calls (30_encoding.md R86) and are the fields
`a` and `f` of the word as they are (R82): what a value means is the command's own rule. -/

namespace Sys2Proof

inductive Instr where
  /-- PREPARE sampleRate, maxBlockFrames (47_engine_commands.md R280). -/
  | prepare (sampleRate : F32) (maxBlockFrames : Half)
  /-- SETPARAM key, value (47_engine_commands.md R281). -/
  | setparam (key : Half) (value : F32)
  /-- NOTEON noteNumber, velocity (47_engine_commands.md R282). -/
  | noteon (noteNumber : Half) (velocity : F32)
  /-- NOTEOFF noteNumber (47_engine_commands.md R284). -/
  | noteoff (noteNumber : Half)
  /-- PROCESS frameCount (47_engine_commands.md R285). -/
  | process (frameCount : Half)
  deriving DecidableEq, Repr

end Sys2Proof
end

