-- ==== Sys2Proof/WellFormed.lean ====
section
/-! DEFINITION. Which terms of `Instr` stand for a legal command word: the only condition on an
operand that makes a word illegal is the range of a note number (30_encoding.md R88 step 3). -/

namespace Sys2Proof

/-- A note number of 0..127, that is `a[15:7] = 0` (30_encoding.md R83, R88). -/
def noteInRange (a : Half) : Bool := decide (a.toNat ≤ 127)

/-- `i` is the meaning of some legal word. -/
def Instr.wellFormed : Instr → Bool
  | .prepare _ _ => true
  | .setparam _ _ => true
  | .noteon n _ => noteInRange n
  | .noteoff n => noteInRange n
  | .process _ => true

end Sys2Proof
end

