-- ==== Sys2Proof/Decode.lean ====
section
/-! DEFINITION. The decoder of command words, total and rejecting by name (30_encoding.md R88), the
encoder (R81, R83), the opcode table's masks, and the serialised forms (20_memory.md R61). -/

namespace Sys2Proof

/-! ## Fields of the word (30_encoding.md R81) -/

/-- `op`, bits 63:56. -/
def opField (w : Word) : BitVec 8 := w.extractLsb' 56 8

/-- `rsv`, bits 55:48. -/
def rsvField (w : Word) : BitVec 8 := w.extractLsb' 48 8

/-- `a`, bits 47:32. -/
def aField (w : Word) : Half := w.extractLsb' 32 16

/-- `f`, bits 31:0. -/
def fField (w : Word) : F32 := w.extractLsb' 0 32

/-- Why a word is illegal: the first of R88's conditions that fails. The block itself keeps no
record of it (60_exceptions.md R323). -/
inductive Illegal where
  /-- R88 step 1: `rsv` is not zero. -/
  | reservedFieldNonzero
  /-- R88 step 2: `op` is none of R83's values. -/
  | reservedOpcode
  /-- R88 step 3: a note number above 127. -/
  | noteAbove127
  /-- R88 step 4: a non-zero `f` in a command without a float operand. -/
  | floatFieldNonzero
  deriving DecidableEq, Repr

/-- What decoding a word gives. -/
inductive Decoded where
  | legal (i : Instr)
  | illegal (why : Illegal)
  deriving DecidableEq, Repr

/-- NOTEOFF's operand checks, R88 steps 3 and 4. -/
def decodeNoteoff (a : Half) (f : F32) : Decoded :=
  if noteInRange a then
    if f = 0 then .legal (.noteoff a) else .illegal .floatFieldNonzero
  else .illegal .noteAbove127

/-- Decoding, in the order of 30_encoding.md R88. -/
def decode (w : Word) : Decoded :=
  if rsvField w ≠ 0 then .illegal .reservedFieldNonzero
  else if opField w = 0x01 then .legal (.prepare (fField w) (aField w))
  else if opField w = 0x02 then .legal (.setparam (aField w) (fField w))
  else if opField w = 0x03 then
    if noteInRange (aField w) then .legal (.noteon (aField w) (fField w))
    else .illegal .noteAbove127
  else if opField w = 0x04 then decodeNoteoff (aField w) (fField w)
  else if opField w = 0x05 then
    if fField w = 0 then .legal (.process (aField w)) else .illegal .floatFieldNonzero
  else .illegal .reservedOpcode

/-- The instruction a decoding gives, none where the word is illegal. -/
def Decoded.toOption : Decoded → Option Instr
  | .legal i => some i
  | .illegal _ => none

/-! ## Encoding (30_encoding.md R81, R83) -/

/-- A word of format C with `rsv` zero. -/
def formatC (op : BitVec 8) (a : Half) (f : F32) : Word :=
  (op ++ (0 : BitVec 8) ++ a ++ f : BitVec (8 + 8 + 16 + 32))

/-- The word of an instruction. -/
def encode : Instr → Word
  | .prepare f a => formatC 0x01 a f
  | .setparam a f => formatC 0x02 a f
  | .noteon a f => formatC 0x03 a f
  | .noteoff a => formatC 0x04 a 0
  | .process a => formatC 0x05 a 0

/-! ## The rows of the opcode table (30_encoding.md R88: `W & mask = match`) -/

/-- The row's mask. -/
def Instr.tableMask : Instr → Word
  | .prepare _ _ => 0xFFFF000000000000
  | .setparam _ _ => 0xFFFF000000000000
  | .noteon _ _ => 0xFFFFFF8000000000
  | .noteoff _ => 0xFFFFFF80FFFFFFFF
  | .process _ => 0xFFFF0000FFFFFFFF

/-- The row's match value. -/
def Instr.tableMatch : Instr → Word
  | .prepare _ _ => 0x0100000000000000
  | .setparam _ _ => 0x0200000000000000
  | .noteon _ _ => 0x0300000000000000
  | .noteoff _ => 0x0400000000000000
  | .process _ => 0x0500000000000000

/-! ## Serialised words (20_memory.md R61: least significant byte first) -/

/-- The eight bytes of a word, least significant first. -/
def wordBytes (w : Word) : List Byte :=
  [w.extractLsb' 0 8, w.extractLsb' 8 8, w.extractLsb' 16 8, w.extractLsb' 24 8,
   w.extractLsb' 32 8, w.extractLsb' 40 8, w.extractLsb' 48 8, w.extractLsb' 56 8]

/-- The word that eight bytes stand for, the first byte the least significant. -/
def bytesWord (b0 b1 b2 b3 b4 b5 b6 b7 : Byte) : Word :=
  (b7 ++ b6 ++ b5 ++ b4 ++ b3 ++ b2 ++ b1 ++ b0 : BitVec (8 + 8 + 8 + 8 + 8 + 8 + 8 + 8))

/-- Decoding a byte stream: the first word's decoding and the bytes after it, none where fewer than
eight bytes are left (a command is never shorter than its word, 30_encoding.md R80, R85). -/
def decodeBytes : List Byte → Option (Decoded × List Byte)
  | b0 :: b1 :: b2 :: b3 :: b4 :: b5 :: b6 :: b7 :: rest =>
    some (decode (bytesWord b0 b1 b2 b3 b4 b5 b6 b7), rest)
  | _ => none

/-- The instruction the decoder reads from an instruction whose bits are `w`, numbered as the opcode
table numbers them (bit 0 the least significant bit of the one 64-bit word). Every command is 64
bits long (30_encoding.md R80): bits above `nbits` are zero, so `nbits` needs no other treatment,
and a number of more than 64 bits is no word. -/
def decodeTableWord (nbits w : Nat) : Option Instr :=
  if nbits ≤ 64 ∧ w < 2 ^ 64 then (decode (BitVec.ofNat 64 w)).toOption else none

end Sys2Proof
end

