-- ==== Sys2Proof/Machine/Registers.lean ====
section
/-! DEFINITION. The types of the parameter registers (10_state.md R22, R24 to R27), the register file
(R21), and the record of the biquad's coefficients (42_filter.md R165). Here and everywhere `α` is the
type of the block's numbers. -/

namespace Sys2Proof.Machine

/-- `osc1Wave`, `osc2Wave` (enum5, 10_state.md R24), in the order of their numbers. -/
inductive OscWave where
  | saw | rectangle | triangle | sine | noise
  deriving DecidableEq, Repr

/-- `lfoWave` (enum5, 10_state.md R25), in the order of their numbers. -/
inductive LfoWave where
  | sine | triangle | rectangle | descendingSaw | sampleAndHold
  deriving DecidableEq, Repr

/-- The modulation destinations (10_state.md R26). Which number of `lfoTarget` and `modTarget` names
which of them is the configuration field `targetMap`. -/
inductive Target where
  | osc1Pitch | osc1PwMix | osc1Volume | osc2Pitch | osc2Detune | osc2Volume
  | filterCutoff | filterPeak
  deriving DecidableEq, Repr

/-- `filterType` (enum3): three values that the spec leaves unnamed (10_state.md R27). -/
inductive FilterType where
  | type0 | type1 | type2
  deriving DecidableEq, Repr

/-- `voicingMode` (enum2, 10_state.md R27), in the order of their numbers. -/
inductive Voicing where
  | mono | poly
  deriving DecidableEq, Repr

/-- The parameter register file `P[0..32]` (10_state.md R21), the fields in the order of their keys.
A unary field holds a number in [0, 1]: an invariant, `Params.Inv` of Safety.lean. `lfoTarget` and
`modTarget` (enum8, R26) hold the number of their destination. -/
structure Params (α : Type) where
  osc1On : Bool
  osc1Wave : OscWave
  osc1Octave : α
  osc1PwMix : α
  osc1Volume : α
  osc2On : Bool
  osc2Wave : OscWave
  osc2Octave : α
  osc2Detune : α
  osc2Volume : α
  filterOn : Bool
  filterType : FilterType
  filterCutoff : α
  filterPeak : α
  filterEnvMod : α
  ampOn : Bool
  ampAttack : α
  ampDecay : α
  ampSustain : α
  ampRelease : α
  lfoOn : Bool
  lfoWave : LfoWave
  lfoRate : α
  lfoDepth : α
  lfoTarget : Fin 8
  modOn : Bool
  modAttack : α
  modDecay : α
  modAmount : α
  modTarget : Fin 8
  glide : α
  voicingMode : Voicing
  masterVolume : α
  deriving DecidableEq, Repr

/-- The biquad's coefficients (42_filter.md R165). -/
structure Biquad (α : Type) where
  b0 : α
  b1 : α
  b2 : α
  a1 : α
  a2 : α
  deriving DecidableEq, Repr

end Sys2Proof.Machine
end

