-- ==== Sys2Proof/Config.lean ====
section
/-! DEFINITION. The parameters of the model (00_scope.md R4): the record `Numerics` of the arithmetic
`NUM`, the record `Config` of every parameter and configuration function of R4's table, and the free
values. The functions of the machine take a configuration as their argument. Its values stand in
Machine/Standard.lean (the spec's defaults) and Machine/Exact.lean (over the exact reals). -/

namespace Sys2Proof

open Machine (Params Biquad LfoWave Target)

/-- The record `NUM` (00_scope.md R4, R6, 40_numeric_primitives.md R111): the operations that the rules
take beside `+`, `-`, `*`, `/`, `floor` and the comparisons, which are those of the number type `α`
itself. `Numerics.Assumed` of Safety.lean states the properties assumed of them. -/
structure Numerics (α : Type) where
  /-- `2 ^ x`. -/
  pow2 : α → α
  sin : α → α
  cos : α → α
  exp : α → α
  sqrt : α → α
  pi : α
  /-- What a number becomes when the filter stores it from one sample to the next: itself in an exact
  arithmetic. Log 2. -/
  store : α → α

/-- The parameters of 00_scope.md R4, under their names there, and the values that 10_state.md R39
leaves unspecified. -/
structure Config (α : Type) where
  /-- `NUM`. -/
  num : Numerics α
  /-- `N_VOICES`, the size of the voice pool. -/
  nVoices : Nat
  /-- `CHUNK`, the length of a render chunk in samples. -/
  chunk : Nat
  maxAttackSec : α
  maxDecaySec : α
  maxReleaseSec : α
  modMaxAttackSec : α
  modMaxDecaySec : α
  curveParam : α
  clickSec : α
  hpHz : α
  oscGain : α
  lfoRateMin : α
  lfoRateMax : α
  ncMin : α
  ncMax : α
  /-- `A_FB`, `A_OUT`, `A_MASTER`. -/
  aFb : α
  aOut : α
  aMaster : α
  /-- `P_RESET`, the 33 registers after reset. -/
  pReset : Params α
  /-- `OSC2_PW`, the shape parameter of oscillator 2. -/
  osc2Pw : α
  invPower2 : α → α
  polyBlep : (t dt : α) → α
  sigmoid : (x k : α) → α
  cubic : α → α
  /-- The ease at the curve parameter `curve`. -/
  ease : (curve u : α) → α
  /-- The highpass coefficient for the corner `hz`. -/
  hpCoef : (hz rate : α) → α
  biquadCoefs : (nc q : α) → Biquad α
  lfoWave : LfoWave → (phase sh : α) → α
  targetMap : Fin 8 → Target
  /-- The `n`-th answer of the random source (40_numeric_primitives.md R110). -/
  draw : Nat → α
  /-- The seed drawn at the `n`-th note-on (46_voice.md R261). -/
  seed : Nat → Nat
  /-- What `sampleRate` holds between reset and the first accepted PREPARE (10_state.md R39). -/
  resetSampleRate : α
  /-- What every `hpG` holds between reset and the first accepted PREPARE (10_state.md R39). -/
  resetHpG : α
  /-- What every `seed` holds before its voice's first note-on (10_state.md R39). -/
  resetSeed : Nat

namespace Config

/-- `N_PARAMS`, the number of parameter registers (00_scope.md R4, 10_state.md R21): the fields of
`Params`. -/
def nParams : Nat := 33

/-- The random source of the executable block (40_numeric_primitives.md R110): a FREE VALUE for the
`n`-th draw. It has no body, so nothing can be proved about the sequence. `Machine.drawAt` holds it to
[-1, 1]. Log 6. -/
opaque freeDraw : Nat → Scalar

/-- The seed drawn at the `n`-th note-on of the executable block (46_voice.md R261): a FREE VALUE,
opaque and read by no rule. Log 7. -/
opaque freeSeed : Nat → Nat

end Config

end Sys2Proof
end

