-- ==== Sys2Proof/Machine/Numeric.lean ====
section
/-! DEFINITION. The numeric primitives over any number type `α` (40_numeric_primitives.md R100 to R110),
and the spec's definitions of the functions D0 names without defining (00_scope.md R4): `invPower2`,
`polyBlep`, `sigmoid`, `cubic`, `ease`, `hpCoef`, `biquadCoefs`, `lfoWave`, `targetMap`. The machine
takes those from its configuration; Machine/Standard.lean puts these definitions there. -/

namespace Sys2Proof.Machine

variable {α : Type} [Field α] [LinearOrder α] [FloorRing α]

/-! ## Elementary helpers -/

/-- R100: `min(max(x, lo), hi)`. -/
def clamp (x lo hi : α) : α := if x < lo then lo else if hi < x then hi else x

/-- R100. -/
def clamp01 (x : α) : α := clamp x 0 1

/-- R101: the interpolation parameter comes first. -/
def lerp (t a b : α) : α := a + (b - a) * t

/-- R102. -/
def frac (x : α) : α := x - (⌊x⌋ : α)

/-- R103: ties toward plus infinity. -/
def roundHalfUp (x : α) : Int := ⌊x + 1 / 2⌋

/-- The magnitude `|x|`. -/
def magnitude (x : α) : α := if x < 0 then -x else x

/-- `2 ^ n` for an integer `n`, exact. -/
def exp2Int : Int → α
  | .ofNat k => ((2 ^ k : Nat) : α)
  | .negSucc k => 1 / ((2 ^ (k + 1) : Nat) : α)

/-! ## Functions of the rules -/

/-- R104. -/
def midiToFrequency (N : Numerics α) (p : α) : α := 440 * N.pow2 ((p - 69) / 12)

/-- R105. -/
def invPower2 (x : α) : α := 1 - (1 - x) * (1 - x)

/-- R106: the two-sample correction; the branches in the order written. -/
def polyBlep (t dt : α) : α :=
  if t < dt then 2 * (t / dt) - t / dt * (t / dt) - 1
  else if 1 - dt < t then (t - 1) / dt * ((t - 1) / dt) + 2 * ((t - 1) / dt) + 1
  else 0

/-- R107. -/
def sigmoid (x k : α) : α := (x - k * x) / (k - 2 * k * magnitude x + 1)

/-- R108: `u - u^3 / 6`. -/
def cubic (u : α) : α := u - u * u * u / 6

/-- R109: `scaler = 1 + CURVE_PARAM^2 * 32`. -/
def easeScaler (curve : α) : α := 1 + curve * curve * 32

/-- R109. -/
def ease (N : Numerics α) (curve u : α) : α :=
  1 - (N.pow2 (easeScaler curve * (1 - u)) - 1) / (N.pow2 (easeScaler curve) - 1)

/-- 42_filter.md R162: `1 - exp(-2 pi HP_HZ / rate)`. -/
def hpCoef (N : Numerics α) (hz rate : α) : α := 1 - N.exp (-(2 * N.pi * hz / rate))

/-- 42_filter.md R165, from `cos w0`, `sin w0` and Q. -/
def biquadOf (cs sn q : α) : Biquad α :=
  let alpha := sn / (2 * q)
  let a0 := 1 + alpha
  { b0 := (1 - cs) / 2 / a0
    b1 := (1 - cs) / a0
    b2 := (1 - cs) / 2 / a0
    a1 := -2 * cs / a0
    a2 := (1 - alpha) / a0 }

/-- 42_filter.md R165: the coefficients at the angle `w0 = 2 pi nc`. -/
def biquadCoefs (N : Numerics α) (nc q : α) : Biquad α :=
  biquadOf (N.cos (2 * N.pi * nc)) (N.sin (2 * N.pi * nc)) q

/-- 44_lfo.md R223, from the phase after the advance and the held value. -/
def lfoWave (N : Numerics α) (w : LfoWave) (phase sh : α) : α :=
  match w with
  | .sine => N.sin (2 * N.pi * phase)
  | .triangle => 4 * magnitude (phase - 1 / 2) - 1
  | .rectangle => if phase < 1 / 2 then 1 else -1
  | .descendingSaw => 1 - 2 * phase
  | .sampleAndHold => sh

/-- 10_state.md R26: the destination that each number names. -/
def targetMap : Fin 8 → Target
  | 0 => .osc1Pitch | 1 => .osc1PwMix | 2 => .osc1Volume | 3 => .osc2Pitch
  | 4 => .osc2Detune | 5 => .osc2Volume | 6 => .filterCutoff | 7 => .filterPeak

/-- The clamp point of the soft clip, `sqrt 2` (R108). -/
def clipLimit (c : Config α) : α := c.num.sqrt 2

/-- R108. -/
def softClip (c : Config α) (x a : α) : α := a * c.cubic (clamp (x / a) (-clipLimit c) (clipLimit c))

end Sys2Proof.Machine
end

