-- ==== Sys2Proof/Machine/Rational.lean ====
section
/-! DEFINITION. The arithmetic of the executable block: a value of `NUM` (00_scope.md R4, R6) over the
rationals, where `+`, `-`, `*`, `/`, `floor` and every comparison are exact. The irrational functions of
40_numeric_primitives.md R111 are computed to `gridBits` fraction bits: log 1. -/

namespace Sys2Proof.Machine

/-- The results of the irrational functions are multiples of `2 ^ -gridBits`. -/
def gridBits : Nat := 256

/-- The fraction bits of the integers they are computed in. -/
def workBits : Nat := 320

/-- 1, scaled by `2 ^ workBits`. -/
def oneScaled : Nat := 2 ^ workBits

/-- `pi`, scaled and rounded down. -/
def piScaled : Nat :=
  6710401180212168915155840974220003240804194089427148950727106424351713218671805380099500388914039

/-- The natural logarithm of 2, scaled and rounded down. -/
def ln2Scaled : Nat :=
  1480553391661173448385607439722553250922680800745876974795605978609098082859138712941075737848984

/-- A number `x >= 0`, scaled and rounded down. Here and below a known factor stands on the left of an
unknown one, so that the kernel never counts down from it. -/
def scaled (x : Scalar) : Nat := oneScaled * x.num.toNat / x.den

/-- A scaled integer as a number, rounded to the nearest multiple of `2 ^ -gridBits`. -/
def ofScaled (n : Nat) : Scalar :=
  mkRat ((2 ^ (workBits - gridBits - 1) + n) / 2 ^ (workBits - gridBits) : Nat) (2 ^ gridBits)

/-- Horner's rule for the exponential series: `acc` is the sum from term `k` on, `x` scaled. -/
def expHorner (x : Nat) : Nat → Nat → Nat
  | 0, acc => acc
  | k + 1, acc => expHorner x k (oneScaled + acc * x / ((k + 1) * oneScaled))

/-- `2 ^ r` for `r` in [0, 1). -/
def exp2Frac (r : Scalar) : Scalar :=
  clamp (ofScaled (expHorner (ln2Scaled * scaled r / oneScaled) 72 oneScaled)) 1 2

/-- `2 ^ x`. -/
def ratPow2 (x : Scalar) : Scalar := exp2Int ⌊x⌋ * exp2Frac (frac x)

/-- `exp x`, held to at least `2 ^ -1024`. -/
def ratExp (x : Scalar) : Scalar :=
  let y := x / ofScaled ln2Scaled
  ratPow2 (if y < -1024 then -1024 else y)

/-- Horner's rule for `sin x / x`: `acc` is the alternating sum from term `k` on, `x2` the scaled
square of `x`. -/
def sinHorner (x2 : Nat) : Nat → Nat → Nat
  | 0, acc => acc
  | k + 1, acc => sinHorner x2 k (oneScaled - acc * x2 / ((2 * k + 2) * (2 * k + 3) * oneScaled))

/-- `sin (2 pi v)` for `v` in [0, 1/4]. -/
def sinQuarter (v : Scalar) : Scalar :=
  let x := 2 * (piScaled * scaled v / oneScaled)
  clamp01 (ofScaled (sinHorner (x * x / oneScaled) 44 oneScaled * x / oneScaled))

/-- `sin (2 pi u)` for `u` in [0, 1/2]. -/
def sinHalf (u : Scalar) : Scalar := if u ≤ 1 / 4 then sinQuarter u else sinQuarter (1 / 2 - u)

/-- `sin (2 pi t)`, the argument in turns. -/
def sinTurns (t : Scalar) : Scalar :=
  let u := frac t
  if u < 1 / 2 then sinHalf u else -sinHalf (u - 1 / 2)

/-- `pi`. -/
def ratPi : Scalar := ofScaled piScaled

/-- `x` radians in turns. -/
def turns (x : Scalar) : Scalar := x / (2 * ratPi)

/-- `sin x`, the argument in radians. -/
def ratSin (x : Scalar) : Scalar := sinTurns (turns x)

/-- `cos x`, the argument in radians. -/
def ratCos (x : Scalar) : Scalar := sinTurns (turns x + 1 / 4)

/-- The integer square root of `n`, its bits found from `2 ^ (b - 1)` down. -/
def isqrtFrom (n : Nat) : Nat → Nat → Nat
  | 0, r => r
  | b + 1, r => if (2 ^ b + r) * (2 ^ b + r) ≤ n then isqrtFrom n b (2 ^ b + r) else isqrtFrom n b r

/-- `sqrt x` for `x >= 0`, rounded down to a multiple of `2 ^ -gridBits`. Only the kernel
evaluates it: elaboration would unfold some five hundred steps for a comparison with `sqrt 2`. -/
@[irreducible] def ratSqrt (x : Scalar) : Scalar :=
  let n := 2 ^ (2 * gridBits) * x.num.toNat / x.den
  mkRat (isqrtFrom n (n.log2 + 1) 0 : Nat) (2 ^ gridBits)

/-- `x` cut toward zero to a multiple of `2 ^ -gridBits`. Log 2. -/
def settle (x : Scalar) : Scalar :=
  mkRat (Int.tdiv (((2 ^ gridBits : Nat) : Int) * x.num) x.den) (2 ^ gridBits)

/-- The rational arithmetic. Log 1. -/
def ratNum : Numerics Scalar where
  pow2 := ratPow2
  sin := ratSin
  cos := ratCos
  exp := ratExp
  sqrt := ratSqrt
  pi := ratPi
  store := settle

end Sys2Proof.Machine
end

