-- ==== Sys2Proof/Machine/Standard.lean ====
section
/-! DEFINITION. The configuration with the spec's values and default functions (00_scope.md R4) over any
arithmetic, and the one of the executable block: over the rationals, with the model's free values. -/

namespace Sys2Proof.Machine

section
variable {α : Type} [Field α] [LinearOrder α] [FloorRing α]

/-- The model's value for `P_RESET`: the spec leaves the 33 registers unspecified within their types
(10_state.md R39). DESIGN CHOICE, unsafe, log 4. -/
def Params.zeros : Params α where
  osc1On := false
  osc1Wave := .saw
  osc1Octave := 0
  osc1PwMix := 0
  osc1Volume := 0
  osc2On := false
  osc2Wave := .saw
  osc2Octave := 0
  osc2Detune := 0
  osc2Volume := 0
  filterOn := false
  filterType := .type0
  filterCutoff := 0
  filterPeak := 0
  filterEnvMod := 0
  ampOn := false
  ampAttack := 0
  ampDecay := 0
  ampSustain := 0
  ampRelease := 0
  lfoOn := false
  lfoWave := .sine
  lfoRate := 0
  lfoDepth := 0
  lfoTarget := 0
  modOn := false
  modAttack := 0
  modDecay := 0
  modAmount := 0
  modTarget := 0
  glide := 0
  voicingMode := .mono
  masterVolume := 0

/-- R4's values and default functions, for an arithmetic, a random source and a source of seeds. The
open parameters `N_VOICES`, `CHUNK` and `OSC2_PW` have the spec's defaults (log 3); `P_RESET`, which has
none, and what 10_state.md R39 leaves unspecified have the model's choices (log 4, log 5); the functions
D0 names without defining have the spec's definitions (log 15). -/
def standard (N : Numerics α) (draw : Nat → α) (seed : Nat → Nat) : Config α where
  num := N
  nVoices := 6
  chunk := 32
  maxAttackSec := 3
  maxDecaySec := 3
  maxReleaseSec := 3
  modMaxAttackSec := 3
  modMaxDecaySec := 3
  curveParam := 1 / 2
  clickSec := 2 / 1000
  hpHz := 40
  oscGain := 1 / 2
  lfoRateMin := 1 / 100
  lfoRateMax := 10
  ncMin := 1 / 10000
  ncMax := 49 / 100
  aFb := 2
  aOut := 1
  aMaster := 1
  pReset := Params.zeros
  osc2Pw := 0
  invPower2 := invPower2
  polyBlep := polyBlep
  sigmoid := sigmoid
  cubic := cubic
  ease := ease N
  hpCoef := hpCoef N
  biquadCoefs := biquadCoefs N
  lfoWave := lfoWave N
  targetMap := targetMap
  draw := draw
  seed := seed
  resetSampleRate := 1
  resetHpG := 0
  resetSeed := 0

end

/-- The `n`-th draw of the executable block: a free value, held to the range that R110 gives. Log 6. -/
def drawAt (n : Nat) : Scalar := clamp (Config.freeDraw n) (-1) 1

/-- The configuration of the executable block. -/
def std : Config Scalar := standard ratNum drawAt Config.freeSeed

end Sys2Proof.Machine
end

