-- ==== Sys2Proof/Machine/State.lean ====
section
/-! DEFINITION. The state of the block (10_state.md R20 to R36) as plain data, its reset value (R39),
and the reasons a step can stop: the block has none of its own (60_exceptions.md R320). -/

namespace Sys2Proof.Machine

/-! ## Per-voice state (10_state.md R28 to R32) -/

/-- One oscillator (10_state.md R29). -/
structure OscState (α : Type) where
  /-- The accumulated phase, in [0, 1). -/
  phase : α
  /-- The value drawn at the last phase wraparound, in [-1, 1]; no rule reads it. -/
  sh : α
  deriving DecidableEq, Repr

/-- The filter (10_state.md R30). -/
structure FilterState (α : Type) where
  z1 : α
  z2 : α
  /-- The previous output sample, the feedback source. -/
  prevOut : α
  /-- The state of the one-pole highpass in the feedback path. -/
  hpLp : α
  /-- The highpass coefficient, set by FILTER.SETSAMPLERATE. -/
  hpG : α
  deriving DecidableEq, Repr

/-- One envelope (10_state.md R31). -/
structure EgState (α : Type) where
  level : α
  /-- The level from which the release segment descends. -/
  relStart : α
  deriving DecidableEq, Repr

/-- The LFO (10_state.md R32). -/
structure LfoState (α : Type) where
  phase : α
  sh : α
  deriving DecidableEq, Repr

/-- One voice (10_state.md R28). -/
structure Voice (α : Type) where
  note : Fin 128
  gateOn : Bool
  gateOnUptime : α
  gateOffUptime : α
  seed : Nat
  clickGain : α
  lfoOut : α
  osc1 : OscState α
  osc2 : OscState α
  filt : FilterState α
  ampEg : EgState α
  modEg : EgState α
  lfo : LfoState α
  deriving DecidableEq, Repr

/-- One output frame (30_encoding.md R89). -/
structure Frame where
  left : F32
  right : F32
  deriving DecidableEq, Repr

/-! ## The state -/

/-- The state of a block over the numbers `α` (10_state.md R20, R33) and, last, the model's own four
fields: the input and output streams and the two counters of the free values. -/
structure StateOf (α : Type) where
  params : Params α
  voices : List (Voice α)
  prepared : Bool
  sampleRate : α
  maxFrames : Half
  cursor : Nat
  chunk : List α
  /-- The command words delivered and not yet executed, in the order of delivery. MODEL field, log 8. -/
  inbox : List Word
  /-- The frames emitted so far, newest first. MODEL field, log 9. -/
  frames : List Frame
  /-- How many draws have been taken. MODEL field, log 6. -/
  drawCount : Nat
  /-- How many seeds have been drawn. MODEL field, log 7. -/
  seedCount : Nat
  deriving DecidableEq, Repr

/-- The state of the executable block: the fields of `StateOf`, over the rationals. -/
structure State extends StateOf Scalar
  deriving DecidableEq, Repr

/-- The faults of the block: none (60_exceptions.md R320, R321, R324). A type without members, so
that no step can answer one. -/
inductive Fault where
  deriving DecidableEq, Repr

/-- The refusals of the model. -/
inductive Refusal where
  /-- An instruction without a meaning, raised by `exec`'s arm for it. Safe: the model stops. No arm
  raises it in this model. -/
  | notModelled (mnemonic : String)
  deriving DecidableEq, Repr

/-! ## Reset (10_state.md R39, 70_reset_and_hazards.md R351, R352) -/

section
variable {α : Type} [Field α]

/-- An idle voice, as 10_state.md R39 gives it (`seed` and `filt.hpG`: log 5). -/
def Voice.reset (c : Config α) : Voice α where
  note := 0
  gateOn := false
  gateOnUptime := 0
  gateOffUptime := 0
  seed := c.resetSeed
  clickGain := 1
  lfoOut := 0
  osc1 := ⟨0, 0⟩
  osc2 := ⟨0, 0⟩
  filt := ⟨0, 0, 0, 0, c.resetHpG⟩
  ampEg := ⟨0, 0⟩
  modEg := ⟨0, 0⟩
  lfo := ⟨0, 0⟩

/-- The state after reset (10_state.md R39; `params` is the parameter `P_RESET`, `sampleRate` log 5). -/
def StateOf.reset (c : Config α) : StateOf α where
  params := c.pReset
  voices := List.replicate c.nVoices (Voice.reset c)
  prepared := false
  sampleRate := c.resetSampleRate
  maxFrames := 0
  cursor := 0
  chunk := List.replicate c.chunk 0
  inbox := []
  frames := []
  drawCount := 0
  seedCount := 0

end

/-- The executable block after reset. -/
def State.reset : State := ⟨StateOf.reset std⟩

end Sys2Proof.Machine
end

