-- ==== Sys2Proof/Machine/Flags.lean ====
section
/-! DEFINITION. The Boolean status elements (10_state.md R36): `prepared` and one gate per voice. The
block has no condition codes, and no command writes a flag other than these. -/

namespace Sys2Proof.Machine

variable {α : Type}

/-- `prepared <- true` (47_engine_commands.md R280). Nothing clears it but reset. -/
def StateOf.raisePrepared (s : StateOf α) : StateOf α := { s with prepared := true }

/-- `gateOn <- true` (46_voice.md R261). -/
def Voice.raiseGate (v : Voice α) : Voice α := { v with gateOn := true }

/-- `gateOn <- false` (46_voice.md R262). -/
def Voice.dropGate (v : Voice α) : Voice α := { v with gateOn := false }

end Sys2Proof.Machine
end

