-- ==== Sys2Proof/Machine/Operands.lean ====
section
/-! DEFINITION. The operand forms: the binary32 operand `f` (30_encoding.md R82,
40_numeric_primitives.md R112), the note operand, the conversions of SETPARAM
(47_engine_commands.md R281), and the binary32 pattern of an emitted sample (R112). -/

namespace Sys2Proof.Machine

/-! ## binary32 in -/

/-- A binary32 operand that is not a NaN: `f32(b)`, a rational number whatever the arithmetic, or one
of the infinities (R112). -/
inductive ExtNum where
  | negInf
  | finite (x : Rat)
  | posInf
  deriving DecidableEq, Repr

/-- The exponent field, bits 30:23 (30_encoding.md R82). -/
def f32Exponent (b : F32) : Nat := (b.extractLsb' 23 8).toNat

/-- The fraction field, bits 22:0. -/
def f32Fraction (b : F32) : Nat := (b.extractLsb' 0 23).toNat

/-- The sign, bit 31. -/
def f32Sign (b : F32) : Bool := b.getLsbD 31

/-- The magnitude of a finite pattern: subnormal for exponent field 0, else with the hidden bit. -/
def f32Magnitude (b : F32) : Rat :=
  if f32Exponent b = 0 then (f32Fraction b : Rat) * exp2Int (-149)
  else ((2 ^ 23 + f32Fraction b : Nat) : Rat) * exp2Int ((f32Exponent b : Int) - 150)

/-- The pattern as a number (R82, R112): `none` for a NaN. `-0` is the real 0. -/
def f32Value (b : F32) : Option ExtNum :=
  if f32Exponent b = 255 then
    if f32Fraction b = 0 then some (if f32Sign b then .negInf else .posInf) else none
  else some (.finite (if f32Sign b then -f32Magnitude b else f32Magnitude b))

/-! ## The note operand -/

/-- `a` as a note number, none above 127 (30_encoding.md R83, R88 step 3). -/
def noteOperand (a : Half) : Option (Fin 128) := if h : a.toNat < 128 then some ⟨a.toNat, h⟩ else none

/-! ## SETPARAM's conversions (47_engine_commands.md R281) -/

/-- unary: `clamp(x, 0, 1)`, the infinities to the ends. -/
def ExtNum.toUnary : ExtNum → Rat
  | .negInf => 0
  | .finite x => clamp01 x
  | .posInf => 1

/-- bool: `x >= 0.5`. -/
def ExtNum.toBool : ExtNum → Bool
  | .negInf => false
  | .finite x => decide (1 / 2 ≤ x)
  | .posInf => true

/-- enumK: `clamp(roundHalfUp(x), 0, K-1)`, for `top = K - 1`. -/
def ExtNum.toIndex (top : Nat) : ExtNum → Nat
  | .negInf => 0
  | .finite x => min (roundHalfUp x).toNat top
  | .posInf => top

/-- The number of an oscillator waveform (10_state.md R24). -/
def OscWave.index : OscWave → Nat
  | .saw => 0 | .rectangle => 1 | .triangle => 2 | .sine => 3 | .noise => 4

def OscWave.ofIndex : Nat → OscWave
  | 0 => .saw | 1 => .rectangle | 2 => .triangle | 3 => .sine | _ => .noise

/-- The number of an LFO waveform (10_state.md R25). -/
def LfoWave.index : LfoWave → Nat
  | .sine => 0 | .triangle => 1 | .rectangle => 2 | .descendingSaw => 3 | .sampleAndHold => 4

def LfoWave.ofIndex : Nat → LfoWave
  | 0 => .sine | 1 => .triangle | 2 => .rectangle | 3 => .descendingSaw | _ => .sampleAndHold

/-- The member `n` of an enum8 register (10_state.md R26). -/
def targetNumber (n : Nat) : Fin 8 := ⟨min n 7, by omega⟩

/-- The number of a filter type (10_state.md R27). -/
def FilterType.index : FilterType → Nat
  | .type0 => 0 | .type1 => 1 | .type2 => 2

def FilterType.ofIndex : Nat → FilterType
  | 0 => .type0 | 1 => .type1 | _ => .type2

/-- The number of a voicing mode (10_state.md R27). -/
def Voicing.index : Voicing → Nat
  | .mono => 0 | .poly => 1

def Voicing.ofIndex : Nat → Voicing
  | 0 => .mono | _ => .poly

/-! ## binary32 out: `toF32`, nearest, ties to even (40_numeric_primitives.md R112) -/

section
variable {α : Type} [Field α] [LinearOrder α] [FloorRing α]

/-- `y >= 0` rounded to the nearest integer, ties to even. -/
def roundNearestEven (y : α) : Nat :=
  let q := ⌊y⌋.toNat
  let r := y - (q : α)
  if r < 1 / 2 then q else if 1 / 2 < r then q + 1 else if q % 2 = 0 then q else q + 1

/-- The integer `e` with `2^e <= x < 2^(e+1)`, for `x > 0`. -/
def floorLog2 (x : α) : Int :=
  if 1 ≤ x then (⌊x⌋.toNat.log2 : Int) else -((⌈1 / x⌉.toNat - 1).log2 + 1 : Nat)

/-- The magnitude bits of the pattern nearest `x`, for `x > 0`: the significand counted in units of the
last place of its binade (the subnormal one at the bottom), added to the binade's start. A magnitude
beyond the largest finite pattern gives the infinity's pattern; none is ever emitted
(47_engine_commands.md R291). Log 11. -/
def f32Bits (x : α) : Nat :=
  let e : Int := max (floorLog2 x) (-126)
  min (2 ^ 23 * (e + 126).toNat + roundNearestEven (exp2Int (23 - e) * x)) 0x7F800000

/-- `toF32(x)`: the sign is that of the number, so 0 gives `+0` and a tiny negative number `-0`. -/
def toF32 (x : α) : F32 :=
  if x = 0 then 0
  else BitVec.ofNat 32 ((if x < 0 then 2 ^ 31 else 0) + f32Bits (magnitude x))

end

end Sys2Proof.Machine
end

