-- ==== Sys2Proof/Machine/Ops.lean ====
section
/-! DEFINITION. The named operations over the registers, the streams and the engine fields. The only
address space is the parameter space (20_memory.md R60, R65): `Params.write` and `Params.read` are
its access operations. The block takes no exception and returns from none (60_exceptions.md R320,
R324, R325), so there is no operation for either. -/

namespace Sys2Proof.Machine

variable {α : Type}

/-! ## The parameter space (10_state.md R21, 20_memory.md R65) -/

/-- The content of a parameter register: a unary, a Boolean, or the number of an enumeration member
(10_state.md R22). -/
inductive ParamValue (α : Type) where
  | unary (x : α)
  | bool (b : Bool)
  | enum (n : Nat)
  deriving DecidableEq, Repr

/-- The type of a parameter register (10_state.md R22); `enum top` has the members `0..top`. -/
inductive ParamType where
  | unary
  | bool
  | enum (top : Nat)
  deriving DecidableEq, Repr

/-- The type column of 10_state.md R21; none for an unmapped key. -/
def paramType : Nat → Option ParamType
  | 0 => some .bool | 1 => some (.enum 4) | 2 => some .unary | 3 => some .unary
  | 4 => some .unary | 5 => some .bool | 6 => some (.enum 4) | 7 => some .unary
  | 8 => some .unary | 9 => some .unary | 10 => some .bool | 11 => some (.enum 2)
  | 12 => some .unary | 13 => some .unary | 14 => some .unary | 15 => some .bool
  | 16 => some .unary | 17 => some .unary | 18 => some .unary | 19 => some .unary
  | 20 => some .bool | 21 => some (.enum 4) | 22 => some .unary | 23 => some .unary
  | 24 => some (.enum 7) | 25 => some .bool | 26 => some .unary | 27 => some .unary
  | 28 => some .unary | 29 => some (.enum 7) | 30 => some .unary | 31 => some (.enum 1)
  | 32 => some .unary | _ => none

/-- The conversion of SETPARAM's value to a register's type (47_engine_commands.md R281). -/
def ExtNum.convert [RatCast α] (x : ExtNum) : ParamType → ParamValue α
  | .unary => .unary (x.toUnary : α)
  | .bool => .bool x.toBool
  | .enum top => .enum (x.toIndex top)

/-- `P[k]`: the content of a register; none for an unmapped key. No command reads a register back
(10_state.md R21): this is the model's view of the file, by key. -/
def Params.read (p : Params α) : Nat → Option (ParamValue α)
  | 0 => some (.bool p.osc1On)
  | 1 => some (.enum p.osc1Wave.index)
  | 2 => some (.unary p.osc1Octave)
  | 3 => some (.unary p.osc1PwMix)
  | 4 => some (.unary p.osc1Volume)
  | 5 => some (.bool p.osc2On)
  | 6 => some (.enum p.osc2Wave.index)
  | 7 => some (.unary p.osc2Octave)
  | 8 => some (.unary p.osc2Detune)
  | 9 => some (.unary p.osc2Volume)
  | 10 => some (.bool p.filterOn)
  | 11 => some (.enum p.filterType.index)
  | 12 => some (.unary p.filterCutoff)
  | 13 => some (.unary p.filterPeak)
  | 14 => some (.unary p.filterEnvMod)
  | 15 => some (.bool p.ampOn)
  | 16 => some (.unary p.ampAttack)
  | 17 => some (.unary p.ampDecay)
  | 18 => some (.unary p.ampSustain)
  | 19 => some (.unary p.ampRelease)
  | 20 => some (.bool p.lfoOn)
  | 21 => some (.enum p.lfoWave.index)
  | 22 => some (.unary p.lfoRate)
  | 23 => some (.unary p.lfoDepth)
  | 24 => some (.enum p.lfoTarget.val)
  | 25 => some (.bool p.modOn)
  | 26 => some (.unary p.modAttack)
  | 27 => some (.unary p.modDecay)
  | 28 => some (.unary p.modAmount)
  | 29 => some (.enum p.modTarget.val)
  | 30 => some (.unary p.glide)
  | 31 => some (.enum p.voicingMode.index)
  | 32 => some (.unary p.masterVolume)
  | _ => none

/-- `P[k] <- x`, converted to the register's type (47_engine_commands.md R281); an unmapped key is a
silent no-op (20_memory.md R65). -/
def Params.write [RatCast α] (p : Params α) (k : Nat) (x : ExtNum) : Params α :=
  match k with
  | 0 => { p with osc1On := x.toBool }
  | 1 => { p with osc1Wave := OscWave.ofIndex (x.toIndex 4) }
  | 2 => { p with osc1Octave := (x.toUnary : α) }
  | 3 => { p with osc1PwMix := (x.toUnary : α) }
  | 4 => { p with osc1Volume := (x.toUnary : α) }
  | 5 => { p with osc2On := x.toBool }
  | 6 => { p with osc2Wave := OscWave.ofIndex (x.toIndex 4) }
  | 7 => { p with osc2Octave := (x.toUnary : α) }
  | 8 => { p with osc2Detune := (x.toUnary : α) }
  | 9 => { p with osc2Volume := (x.toUnary : α) }
  | 10 => { p with filterOn := x.toBool }
  | 11 => { p with filterType := FilterType.ofIndex (x.toIndex 2) }
  | 12 => { p with filterCutoff := (x.toUnary : α) }
  | 13 => { p with filterPeak := (x.toUnary : α) }
  | 14 => { p with filterEnvMod := (x.toUnary : α) }
  | 15 => { p with ampOn := x.toBool }
  | 16 => { p with ampAttack := (x.toUnary : α) }
  | 17 => { p with ampDecay := (x.toUnary : α) }
  | 18 => { p with ampSustain := (x.toUnary : α) }
  | 19 => { p with ampRelease := (x.toUnary : α) }
  | 20 => { p with lfoOn := x.toBool }
  | 21 => { p with lfoWave := LfoWave.ofIndex (x.toIndex 4) }
  | 22 => { p with lfoRate := (x.toUnary : α) }
  | 23 => { p with lfoDepth := (x.toUnary : α) }
  | 24 => { p with lfoTarget := targetNumber (x.toIndex 7) }
  | 25 => { p with modOn := x.toBool }
  | 26 => { p with modAttack := (x.toUnary : α) }
  | 27 => { p with modDecay := (x.toUnary : α) }
  | 28 => { p with modAmount := (x.toUnary : α) }
  | 29 => { p with modTarget := targetNumber (x.toIndex 7) }
  | 30 => { p with glide := (x.toUnary : α) }
  | 31 => { p with voicingMode := Voicing.ofIndex (x.toIndex 1) }
  | 32 => { p with masterVolume := (x.toUnary : α) }
  | _ => p

/-! ## Updates of the state -/

/-- The register file replaced. -/
def StateOf.setParams (s : StateOf α) (p : Params α) : StateOf α := { s with params := p }

/-- The voices replaced. -/
def StateOf.setVoices (s : StateOf α) (vs : List (Voice α)) : StateOf α := { s with voices := vs }

/-- The rate and block size of a PREPARE (10_state.md R33). -/
def StateOf.setRate (s : StateOf α) (rate : α) (maxFrames : Half) : StateOf α :=
  { s with sampleRate := rate, maxFrames := maxFrames }

/-- A regeneration's result: the voices, the chunk and the draws taken. -/
def StateOf.setChunk (s : StateOf α) (vs : List (Voice α)) (chunk : List α) (draws : Nat) : StateOf α :=
  { s with voices := vs, chunk := chunk, drawCount := draws }

/-- `cursor <- (cursor + 1) mod CHUNK`, the only wrapping operation (40_numeric_primitives.md R113). -/
def StateOf.advanceCursor (c : Config α) (s : StateOf α) : StateOf α :=
  { s with cursor := (s.cursor + 1) % c.chunk }

/-- `emit(l, r)`, for a pattern that both halves carry (30_encoding.md R89: right is a copy of left). -/
def StateOf.emit (s : StateOf α) (sample : F32) : StateOf α :=
  { s with frames := ⟨sample, sample⟩ :: s.frames }

/-- `n` frames of silence (47_engine_commands.md R285, before PREPARE). -/
def StateOf.emitSilence (s : StateOf α) (n : Nat) : StateOf α :=
  { s with frames := List.replicate n ⟨0, 0⟩ ++ s.frames }

/-- One seed taken from the random source (46_voice.md R261). -/
def StateOf.takeSeed (s : StateOf α) : StateOf α := { s with seedCount := s.seedCount + 1 }

/-- The undelivered rest of the input stream after a word was taken. -/
def StateOf.setInbox (s : StateOf α) (ws : List Word) : StateOf α := { s with inbox := ws }

end Sys2Proof.Machine
end

