-- ==== Sys2Proof/Machine/Envelope.lean ====
section
/-! DEFINITION. The EnvelopeGenerator and the click suppression (43_envelope.md). -/

namespace Sys2Proof.Machine

variable {α : Type} [Field α] [LinearOrder α] [FloorRing α]

/-- The inputs of one EG.ADVANCE that come from the registers (R191, R192). -/
structure EgInput (α : Type) where
  on : Bool
  attack : α
  decay : α
  sustain : α
  release : α
  deriving DecidableEq, Repr

/-- R191: the amplitude envelope. -/
def ampInput (c : Config α) (p : Params α) : EgInput α where
  on := p.ampOn
  attack := p.ampAttack * p.ampAttack * c.maxAttackSec
  decay := p.ampDecay * p.ampDecay * c.maxDecaySec
  sustain := p.ampSustain
  release := p.ampRelease * p.ampRelease * c.maxReleaseSec

/-- R192: the modulation envelope; its release is its decay and its sustain 0. -/
def modInput (c : Config α) (p : Params α) : EgInput α where
  on := p.modOn
  attack := p.modAttack * p.modAttack * c.modMaxAttackSec
  decay := p.modDecay * p.modDecay * c.modMaxDecaySec
  sustain := 0
  release := p.modDecay * p.modDecay * c.modMaxDecaySec

/-- R194: the start level of the release, latched at the first advance after a gate-off. -/
def egLatch (gate : Bool) (tOff : α) (e : EgState α) : α :=
  if !gate ∧ tOff = 0 then e.level else e.relStart

/-- R193: the level at the progress `u` of a segment from `l0` to `l1`. -/
def egSegment (c : Config α) (u l0 l1 : α) : α := lerp (c.ease c.curveParam u) l0 l1

/-- R195: the level while the gate is on. -/
def egHeld (c : Config α) (q : EgInput α) (tOn : α) : α :=
  if tOn < q.attack then egSegment c (tOn / q.attack) 0 1
  else if tOn < q.attack + q.decay then egSegment c ((tOn - q.attack) / q.decay) 1 q.sustain
  else q.sustain

/-- R195, R196: the level while the gate is off. -/
def egReleased (c : Config α) (q : EgInput α) (tOff relStart : α) : α :=
  if tOff < q.release then egSegment c (tOff / q.release) relStart 0 else 0

/-- R195: `EG.ADVANCE`, with the bypass of R197. -/
def egAdvance (c : Config α) (q : EgInput α) (gate : Bool) (tOn tOff : α) (e : EgState α) : EgState α :=
  let relStart := egLatch gate tOff e
  { level :=
      if !q.on then (if gate then 1 else 0)
      else if gate then egHeld c q tOn
      else egReleased c q tOff relStart
    relStart := relStart }

/-- R198: the click-suppressing gain. -/
def clickGainOf (c : Config α) (gate : Bool) (tOn : α) : α :=
  if gate ∧ tOn < c.clickSec then 1 / 2 - 1 / 2 * c.num.cos (c.num.pi * tOn / c.clickSec) else 1

end Sys2Proof.Machine
end

