-- ==== Sys2Proof/Machine/Router.lean ====
section
/-! DEFINITION. The ModulationRouter (45_modulation_router.md): two functions of the registers and of
the voice's snapshot, without state. -/

namespace Sys2Proof.Machine

variable {α : Type} [Field α] [LinearOrder α] [FloorRing α]

/-- R241: `lfoSel(T)`. -/
def lfoSel (c : Config α) (p : Params α) (t : Target) : α :=
  if p.lfoOn ∧ c.targetMap p.lfoTarget = t then 1 else 0

/-- R241: `modSel(T)`. -/
def modSel (c : Config α) (p : Params α) (t : Target) : α :=
  if p.modOn ∧ c.targetMap p.modTarget = t then 1 else 0

/-- R242: `ROUTE.UNARY(i, base, T)`. -/
def routeUnary (c : Config α) (p : Params α) (v : Voice α) (base : α) (t : Target) : α :=
  clamp01 (base + v.lfoOut * (p.lfoDepth * p.lfoDepth) * lfoSel c p t
    + v.modEg.level * (p.modAmount * p.modAmount) * modSel c p t)

/-- R243: `ROUTE.PITCH(i, T)`, in semitones. -/
def routePitch (c : Config α) (p : Params α) (v : Voice α) (t : Target) : α :=
  v.lfoOut * (p.lfoDepth * p.lfoDepth * p.lfoDepth) * 4 * lfoSel c p t
    + v.modEg.level * (p.modAmount * p.modAmount) * 12 * modSel c p t

end Sys2Proof.Machine
end

