-- ==== Sys2Proof/Machine/Filter.lean ====
section
/-! DEFINITION. The FilterUnit (42_filter.md): FILTER.RESET, FILTER.SETSAMPLERATE, FILTER.PROCESS. -/

namespace Sys2Proof.Machine

variable {α : Type} [Field α] [LinearOrder α] [FloorRing α]

/-- R161: `hpG` is kept. -/
def filterReset (f : FilterState α) : FilterState α :=
  { f with z1 := 0, z2 := 0, prevOut := 0, hpLp := 0 }

/-- R162: FILTER.SETSAMPLERATE. -/
def filterSetSampleRate (c : Config α) (f : FilterState α) (rate : α) : FilterState α :=
  { f with hpG := c.hpCoef c.hpHz rate }

/-! ## Per-call quantities -/

/-- R163. -/
def normalizedCutoff (c : Config α) (note : Fin 128) (cutoffParam rate : α) : α :=
  clamp (midiToFrequency c.num (lerp (c.invPower2 cutoffParam) ((note.val : α) - 6) 124) / rate)
    c.ncMin c.ncMax

/-- R164. -/
def resonanceQ (peakParam : α) : α := 1 / 2 + peakParam * (4 / 10) * (20 - 1 / 2)

/-- R166. -/
def feedbackAmount (peakParam cutoffParam : α) : α :=
  peakParam * (4 / 10) * (1 - cutoffParam) * (9 / 10)

/-- What one FILTER.PROCESS call computes once (R163 to R166). -/
structure FilterInput (α : Type) where
  coefs : Biquad α
  fb : α
  deriving DecidableEq, Repr

/-- R163 to R166 for one voice. -/
def filterInput (c : Config α) (p : Params α) (rate : α) (v : Voice α) : FilterInput α :=
  let cutoffParam := routeUnary c p v p.filterCutoff .filterCutoff
  let peakParam := routeUnary c p v p.filterPeak .filterPeak
  { coefs := c.biquadCoefs (normalizedCutoff c v.note cutoffParam rate) (resonanceQ peakParam)
    fb := feedbackAmount peakParam cutoffParam }

/-! ## The sample loop -/

/-- R167, R168: one sample. The three numbers that stay in the state pass through the arithmetic's
`store`, in an exact arithmetic the identity: log 2. -/
def filterSample (c : Config α) (q : FilterInput α) (f : FilterState α) (x : α) : α × FilterState α :=
  let fs := softClip c f.prevOut c.aFb
  let hpLp := c.num.store (f.hpLp + f.hpG * (fs - f.hpLp))
  let fh := fs - hpLp
  let xin := x - fh * q.fb
  let w := c.num.store (xin - q.coefs.a1 * f.z1 - q.coefs.a2 * f.z2)
  let y := c.num.store (softClip c (q.coefs.b0 * w + q.coefs.b1 * f.z1 + q.coefs.b2 * f.z2) c.aOut)
  (y, { f with z1 := w, z2 := f.z1, prevOut := y, hpLp := hpLp })

/-- R167's loop, in place on the scratch buffer. -/
def filterLoop (c : Config α) (q : FilterInput α) : List α → FilterState α → List α × FilterState α
  | [], f => ([], f)
  | x :: xs, f =>
    let (y, f1) := filterSample c q f x
    let (ys, f2) := filterLoop c q xs f1
    (y :: ys, f2)

/-- FILTER.PROCESS, or with `filterOn` false nothing at all (R169). -/
def filterProcess (c : Config α) (on : Bool) (q : FilterInput α) (scratch : List α)
    (f : FilterState α) : List α × FilterState α :=
  if on then filterLoop c q scratch f else (scratch, f)

end Sys2Proof.Machine
end

