-- ==== Sys2Proof/Machine/Lfo.lean ====
section
/-! DEFINITION. The LfoUnit (44_lfo.md). -/

namespace Sys2Proof.Machine

variable {α : Type} [Field α] [LinearOrder α] [FloorRing α]

/-- R221: the phase advance per chunk. -/
def lfoIncrement (c : Config α) (lfoRate rate : α) : α :=
  lerp lfoRate c.lfoRateMin c.lfoRateMax / rate * (c.chunk : α)

/-- R222: the advance; a wrap draws a new `sh`, whatever the waveform (R224). -/
def lfoStep (c : Config α) (l : LfoState α) (inc : α) (draws : Nat) : LfoState α × Nat :=
  if 1 ≤ l.phase + inc then (⟨frac (l.phase + inc), c.draw draws⟩, draws + 1)
  else ({ l with phase := l.phase + inc }, draws)

/-- R223: the output, from the advanced state. -/
def lfoOutput (c : Config α) (w : LfoWave) (l : LfoState α) : α := c.lfoWave w l.phase l.sh

end Sys2Proof.Machine
end

