-- ==== Sys2Proof/Machine/Oscillator.lean ====
section
/-! DEFINITION. The OscillatorUnit (41_oscillator.md): OSC.RESET and OSC.RENDER. -/

namespace Sys2Proof.Machine

variable {α : Type} [Field α] [LinearOrder α] [FloorRing α]

/-- R131: `OSC.RESET`; `sh` is kept. -/
def oscReset (o : OscState α) : OscState α := { o with phase := 0 }

/-! ## The waveforms -/

/-- R135. -/
def sawWave (c : Config α) (t dt pw : α) : α :=
  let bp := c.invPower2 pw * (95 / 100)
  (if t < bp then -1 else -1 + 2 * (t - bp) / (1 - bp)) - c.polyBlep t dt

/-- R136. -/
def rectWave (c : Config α) (t dt pw : α) : α :=
  let bp := 1 / 2 - pw * (4 / 10)
  (if t < bp then 1 else -1) + c.polyBlep t dt - c.polyBlep (frac (t - bp)) dt

/-- R137. -/
def triWave (c : Config α) (t pw : α) : α := c.sigmoid (4 * magnitude (t - 1 / 2) - 1) (pw * (9 / 10))

/-- R138. -/
def sineWave (c : Config α) (t pw : α) : α := c.sigmoid (c.num.sin (2 * c.num.pi * t)) (pw * (9 / 10))

/-- R134, R139: the waveform's value and the number of draws taken so far; noise takes one draw a
sample. -/
def oscSample (c : Config α) (w : OscWave) (t dt pw : α) (draws : Nat) : α × Nat :=
  match w with
  | .saw => (sawWave c t dt pw, draws)
  | .rectangle => (rectWave c t dt pw, draws)
  | .triangle => (triWave c t pw, draws)
  | .sine => (sineWave c t pw, draws)
  | .noise => (c.draw draws, draws + 1)

/-- R141: the phase advance; a wrap draws a new `sh`. -/
def oscAdvance (c : Config α) (o : OscState α) (dt : α) (draws : Nat) : OscState α × Nat :=
  if 1 ≤ o.phase + dt then (⟨frac (o.phase + dt), c.draw draws⟩, draws + 1)
  else ({ o with phase := o.phase + dt }, draws)

/-! ## The render loop -/

/-- What OSC.RENDER takes from the registers and the router, read once per call (R144). -/
structure OscInput (α : Type) where
  wave : OscWave
  dt : α
  pw : α
  vol : α
  deriving DecidableEq, Repr

/-- R134's loop over the scratch buffer: the sample first, then the advance. -/
def oscLoop (c : Config α) (q : OscInput α) :
    List α → OscState α → Nat → List α × OscState α × Nat
  | [], o, draws => ([], o, draws)
  | x :: xs, o, draws =>
    let (w, d1) := oscSample c q.wave o.phase q.dt q.pw draws
    let (o1, d2) := oscAdvance c o q.dt d1
    let (ys, o2, d3) := oscLoop c q xs o1 d2
    ((x + w * q.vol * c.oscGain) :: ys, o2, d3)

/-- R132: the octave register as an integer shift. -/
def octaveShift (octave : α) : Int := roundHalfUp (lerp octave (-2) 2)

/-- R132: the frequency of a note with its shift, detune and pitch modulation. -/
def oscFrequency (c : Config α) (note : Fin 128) (shift : Int) (detune pitchMod : α) : α :=
  440 * c.num.pow2 (((note.val : α) + 12 * (shift : α) + detune + pitchMod - 69) / 12)

/-- R132, R133, R142: oscillator 1's inputs. -/
def osc1Input (c : Config α) (p : Params α) (rate : α) (v : Voice α) : OscInput α where
  wave := p.osc1Wave
  dt := oscFrequency c v.note (octaveShift p.osc1Octave) 0 (routePitch c p v .osc1Pitch) / rate
  pw := routeUnary c p v p.osc1PwMix .osc1PwMix
  vol := routeUnary c p v p.osc1Volume .osc1Volume

/-- R132: oscillator 2's detune, routed and then squared. -/
def osc2DetuneSemitones (c : Config α) (p : Params α) (v : Voice α) : α :=
  routeUnary c p v p.osc2Detune .osc2Detune * routeUnary c p v p.osc2Detune .osc2Detune

/-- R132, R133, R142: oscillator 2's inputs. -/
def osc2Input (c : Config α) (p : Params α) (rate : α) (v : Voice α) : OscInput α where
  wave := p.osc2Wave
  dt := oscFrequency c v.note (octaveShift p.osc2Octave) (osc2DetuneSemitones c p v)
    (routePitch c p v .osc2Pitch) / rate
  pw := c.osc2Pw
  vol := routeUnary c p v p.osc2Volume .osc2Volume

/-- R134 with R140's switch: a disabled oscillator touches nothing and takes no draw. -/
def oscRender (c : Config α) (on : Bool) (q : OscInput α) (scratch : List α) (o : OscState α)
    (draws : Nat) : List α × OscState α × Nat :=
  if on then oscLoop c q scratch o draws else (scratch, o, draws)

end Sys2Proof.Machine
end

