-- ==== Sys2Proof/Machine/Voice.lean ====
section
/-! DEFINITION. The Voice (46_voice.md): VOICE.NOTEON, VOICE.NOTEOFF, VOICE.RENDER. Each reads and
writes its own voice only (R260). -/

namespace Sys2Proof.Machine

variable {α : Type} [Field α] [LinearOrder α] [FloorRing α]

/-- R261: `VOICE.NOTEON(i, n)`. The envelopes, the snapshot, every `sh` and `hpG` are kept. -/
def voiceNoteOn (n : Fin 128) (seed : Nat) (v : Voice α) : Voice α :=
  { v.raiseGate with
    note := n
    gateOnUptime := 0
    gateOffUptime := 0
    seed := seed
    osc1 := oscReset v.osc1
    osc2 := oscReset v.osc2
    filt := filterReset v.filt
    lfo := { v.lfo with phase := 0 } }

/-- R262: `VOICE.NOTEOFF(i)`. -/
def voiceNoteOff (v : Voice α) : Voice α := { v.dropGate with gateOffUptime := 0 }

/-- R263 step 1: the snapshot, at the uptimes as they stand at the start of the chunk. -/
def voiceSnapshot (c : Config α) (p : Params α) (rate : α) (v : Voice α) (draws : Nat) : Voice α × Nat :=
  let (l, d) := lfoStep c v.lfo (lfoIncrement c p.lfoRate rate) draws
  ({ v with
     ampEg := egAdvance c (ampInput c p) v.gateOn v.gateOnUptime v.gateOffUptime v.ampEg
     clickGain := clickGainOf c v.gateOn v.gateOnUptime
     modEg := egAdvance c (modInput c p) v.gateOn v.gateOnUptime v.gateOffUptime v.modEg
     lfo := l
     lfoOut := lfoOutput c p.lfoWave l }, d)

/-- A cleared scratch buffer (R263 step 2, 10_state.md R34). -/
def silence (c : Config α) : List α := List.replicate c.chunk 0

/-- R263 step 2: both oscillators, oscillator 1 first, into a cleared buffer. -/
def voiceOscillators (c : Config α) (p : Params α) (rate : α) (v : Voice α) (draws : Nat) :
    List α × Voice α × Nat :=
  let (b1, o1, d1) := oscRender c p.osc1On (osc1Input c p rate v) (silence c) v.osc1 draws
  let (b2, o2, d2) := oscRender c p.osc2On (osc2Input c p rate v) b1 v.osc2 d1
  (b2, { v with osc1 := o1, osc2 := o2 }, d2)

/-- R263 step 3. -/
def voiceFilter (c : Config α) (p : Params α) (rate : α) (scratch : List α) (v : Voice α) :
    List α × Voice α :=
  let (b, f) := filterProcess c p.filterOn (filterInput c p rate v) scratch v.filt
  (b, { v with filt := f })

/-- R263 step 4. -/
def voiceAmplify (v : Voice α) (scratch : List α) : List α :=
  scratch.map (fun x => x * (v.ampEg.level * v.clickGain))

/-- R263 step 5, R264: only the uptime that matches the gate advances. -/
def voiceTime (c : Config α) (rate : α) (v : Voice α) : Voice α :=
  if v.gateOn then { v with gateOnUptime := v.gateOnUptime + (c.chunk : α) / rate }
  else { v with gateOffUptime := v.gateOffUptime + (c.chunk : α) / rate }

/-- R263: `VOICE.RENDER(i)`: the scratch buffer it leaves, the voice, and the draws taken so far. -/
def voiceRender (c : Config α) (p : Params α) (rate : α) (v : Voice α) (draws : Nat) :
    List α × Voice α × Nat :=
  let (v1, d1) := voiceSnapshot c p rate v draws
  let (b2, v2, d2) := voiceOscillators c p rate v1 d1
  let (b3, v3) := voiceFilter c p rate b2 v2
  (voiceAmplify v3 b3, voiceTime c rate v3, d2)

end Sys2Proof.Machine
end

