-- ==== Sys2Proof/Machine/Engine.lean ====
section
/-! DEFINITION. The VoiceEngine's shared operations: the stealing policy (47_engine_commands.md R283),
the chunk regeneration (R286) and the frame loop of PROCESS (R285). -/

namespace Sys2Proof.Machine

variable {α : Type} [Field α] [LinearOrder α] [FloorRing α]

/-! ## STEAL -/

/-- A candidate of the scan: a voice index and the uptime it is ranked by. -/
abbrev Candidate (α : Type) := Nat × α

/-- The better of the best candidate so far and the next one: a strictly larger uptime, so that ties
keep the lower index (R283). -/
def betterOf : Option (Candidate α) → Nat → Option α → Option (Candidate α)
  | best, _, none => best
  | none, i, some t => some (i, t)
  | some (j, m), i, some t => if m < t then some (i, t) else some (j, m)

/-- The least index, from `i` on, with the largest ranking uptime. -/
def scanVoices (rank : Voice α → Option α) :
    List (Voice α) → Nat → Option (Candidate α) → Option (Candidate α)
  | [], _, best => best
  | v :: vs, i, best => scanVoices rank vs (i + 1) (betterOf best i (rank v))

/-- R283 (a): a released voice ranks by the time since its release. -/
def rankReleased (v : Voice α) : Option α := if v.gateOn then none else some v.gateOffUptime

/-- R283 (b): with no released voice, every voice ranks by the time it has sounded. -/
def rankSounding (v : Voice α) : Option α := some v.gateOnUptime

/-- R283: `STEAL()`. A pool is never empty (`N_VOICES >= 1`); index 0 stands for that case. -/
def steal (vs : List (Voice α)) : Nat :=
  match scanVoices rankReleased vs 0 none with
  | some (i, _) => i
  | none =>
    match scanVoices rankSounding vs 0 none with
    | some (i, _) => i
    | none => 0

/-! ## ENGINE.REGEN -/

/-- R286: every voice rendered, in index order; the voices, the sum of their scratch buffers, and the
draws taken so far. -/
def renderVoices (c : Config α) (p : Params α) (rate : α) :
    List (Voice α) → Nat → List (Voice α) × List α × Nat
  | [], draws => ([], silence c, draws)
  | v :: vs, draws =>
    let (b, v1, d1) := voiceRender c p rate v draws
    let (vs1, acc, d2) := renderVoices c p rate vs d1
    (v1 :: vs1, List.zipWith (· + ·) b acc, d2)

/-- R286: `1 / sqrt(N_VOICES)`. -/
def mixGain (c : Config α) : α := 1 / c.num.sqrt (c.nVoices : α)

/-- R286: a chunk entry from the sum of the voices' samples. -/
def mixSample (c : Config α) (acc : α) : α := softClip c (acc * mixGain c) c.aMaster

/-- R286: `ENGINE.REGEN()`. -/
def regenerate (c : Config α) (s : StateOf α) : StateOf α :=
  let (vs, acc, draws) := renderVoices c s.params s.sampleRate s.voices s.drawCount
  s.setChunk vs (acc.map (mixSample c)) draws

/-! ## The frame loop -/

/-- `chunk[cursor]`. The cursor is below the chunk's length in every reachable state (10_state.md
R40); past its end, 0. Log 12. -/
def StateOf.chunkSample (s : StateOf α) : α := s.chunk.getD s.cursor 0

/-- R285: one frame of a PROCESS in a prepared block. -/
def processFrame (c : Config α) (s : StateOf α) : StateOf α :=
  let s1 := if s.cursor = 0 then regenerate c s else s
  (s1.emit (toF32 s1.chunkSample)).advanceCursor c

/-- R285: `n` frames. -/
def processFrames (c : Config α) : Nat → StateOf α → StateOf α
  | 0, s => s
  | n + 1, s => processFrames c n (processFrame c s)

end Sys2Proof.Machine
end

