-- ==== Sys2Proof/Machine/Block.lean ====
section
/-! DEFINITION. The block over any configuration: what each of the five commands does to the state
(47_engine_commands.md), and the taking of a command word (00_scope.md R5, 30_encoding.md R84, R88).
Every command completes (70_reset_and_hazards.md R350), so each is a function from state to state.
A term that no legal word decodes to (a note above 127) changes nothing, as its word would: log 10. -/

namespace Sys2Proof.Machine

variable {α : Type} [Field α] [LinearOrder α] [FloorRing α]

/-! ## PREPARE (R280) -/

/-- FILTER.SETSAMPLERATE for every voice. -/
def setSampleRates (c : Config α) (rate : α) (vs : List (Voice α)) : List (Voice α) :=
  vs.map (fun v => { v with filt := filterSetSampleRate c v.filt rate })

/-- An accepted PREPARE. -/
def prepareState (c : Config α) (rate : α) (maxFrames : Half) (s : StateOf α) : StateOf α :=
  ((s.setRate rate maxFrames).raisePrepared).setVoices (setSampleRates c rate s.voices)

/-- The rate of a PREPARE, none unless it is finite and positive. -/
def acceptedRate (f : F32) : Option Rat :=
  match f32Value f with
  | some (.finite r) => if 0 < r then some r else none
  | some .negInf => none
  | some .posInf => none
  | none => none

/-- R280: PREPARE. -/
def prepareCommand (c : Config α) (sampleRate : F32) (maxBlockFrames : Half) (s : StateOf α) :
    StateOf α :=
  match acceptedRate sampleRate with
  | some r => prepareState c (r : α) maxBlockFrames s
  | none => s

/-! ## SETPARAM (R281) -/

/-- R281: SETPARAM; a NaN and an unmapped key change nothing. -/
def setparamCommand (key : Half) (value : F32) (s : StateOf α) : StateOf α :=
  match f32Value value with
  | some x => s.setParams (s.params.write key.toNat x)
  | none => s

/-! ## NOTEON (R282) -/

/-- VOICE.NOTEON on the voice that STEAL chooses. -/
def noteOnState (c : Config α) (n : Fin 128) (s : StateOf α) : StateOf α :=
  (s.setVoices (s.voices.modify (steal s.voices) (voiceNoteOn n (c.seed s.seedCount)))).takeSeed

/-- R282: NOTEON; before PREPARE the command changes nothing. -/
def noteonCommand (c : Config α) (noteNumber : Half) (s : StateOf α) : StateOf α :=
  match noteOperand noteNumber with
  | some n => if s.prepared then noteOnState c n s else s
  | none => s

/-! ## NOTEOFF (R284) -/

/-- VOICE.NOTEOFF on every voice whose note is `n`. -/
def releaseNote (n : Fin 128) (vs : List (Voice α)) : List (Voice α) :=
  vs.map (fun v => if v.note = n then voiceNoteOff v else v)

/-- R284: NOTEOFF, prepared or not. -/
def noteoffCommand (noteNumber : Half) (s : StateOf α) : StateOf α :=
  match noteOperand noteNumber with
  | some n => s.setVoices (releaseNote n s.voices)
  | none => s

/-! ## PROCESS (R285) -/

/-- R285: PROCESS; before PREPARE silent frames and no other change. -/
def processCommand (c : Config α) (frameCount : Half) (s : StateOf α) : StateOf α :=
  if s.prepared then processFrames c frameCount.toNat s else s.emitSilence frameCount.toNat

/-! ## The block -/

/-- One command. NOTEON's velocity is ignored (R282). -/
def command (c : Config α) (i : Instr) (s : StateOf α) : StateOf α :=
  match i with
  | .prepare f a => prepareCommand c f a s
  | .setparam a f => setparamCommand a f s
  | .noteon a _ => noteonCommand c a s
  | .noteoff a => noteoffCommand a s
  | .process a => processCommand c a s

/-- One delivered word: a legal one is executed to completion, an illegal one is ignored (30_encoding.md
R84). -/
def wordCommand (c : Config α) (w : Word) (s : StateOf α) : StateOf α :=
  match decode w with
  | .legal i => command c i s
  | .illegal _ => s

/-- The step of the block: the first undelivered word is consumed and executed. With none the block waits
and its state holds (60_exceptions.md R332, 70_reset_and_hazards.md R351). Log 8. -/
def blockStep (c : Config α) (s : StateOf α) : StateOf α :=
  match s.inbox with
  | [] => s
  | w :: ws => wordCommand c w (s.setInbox ws)

end Sys2Proof.Machine
end

