-- ==== Sys2Proof/Machine/Commands.lean ====
section
/-! DEFINITION. The meanings of the five commands in the executable block (47_engine_commands.md): the
commands of Machine/Block.lean at the configuration `std`. Each answers a next state on every operand and
in every state. -/

namespace Sys2Proof.Machine

/-- What a command answers. -/
abbrev Answer := Host.Outcome State Fault Refusal

/-- R280: PREPARE. -/
def execPrepare (sampleRate : F32) (maxBlockFrames : Half) (s : State) : Answer :=
  .next ⟨prepareCommand std sampleRate maxBlockFrames s.toStateOf⟩

/-- R281: SETPARAM. -/
def execSetparam (key : Half) (value : F32) (s : State) : Answer :=
  .next ⟨setparamCommand key value s.toStateOf⟩

/-- R282: NOTEON; the velocity is ignored. -/
def execNoteon (noteNumber : Half) (_velocity : F32) (s : State) : Answer :=
  .next ⟨noteonCommand std noteNumber s.toStateOf⟩

/-- R284: NOTEOFF. -/
def execNoteoff (noteNumber : Half) (s : State) : Answer :=
  .next ⟨noteoffCommand noteNumber s.toStateOf⟩

/-- R285: PROCESS. -/
def execProcess (frameCount : Half) (s : State) : Answer :=
  .next ⟨processCommand std frameCount s.toStateOf⟩

end Sys2Proof.Machine
end

