-- ==== Sys2Proof/Machine/Dispatch.lean ====
section
/-! DEFINITION. One arm per constructor of `Instr` (30_encoding.md R83). -/

namespace Sys2Proof.Machine

def exec (i : Instr) (s : State) : Host.Outcome State Fault Refusal :=
  match i with
  | .prepare f a => Sys2Proof.Machine.execPrepare f a s
  | .setparam a f => Sys2Proof.Machine.execSetparam a f s
  | .noteon a f => Sys2Proof.Machine.execNoteon a f s
  | .noteoff a => Sys2Proof.Machine.execNoteoff a s
  | .process a => Sys2Proof.Machine.execProcess a s

end Sys2Proof.Machine
end

