-- ==== Sys2Proof/Machine/Deliver.lean ====
section
/-! DEFINITION. Taking a command word from the input stream in the executable block (00_scope.md R5,
30_encoding.md R84, R88): the block fetches nothing and has no program counter (10_state.md R35), so the
next command is the first word the host has delivered. Log 8. -/

namespace Sys2Proof.Machine

/-- The undelivered rest of the input stream after a word was taken. -/
def State.setInbox (s : State) (ws : List Word) : State := ⟨s.toStateOf.setInbox ws⟩

/-- One delivered word: a legal one is executed to completion, an illegal one is ignored (R84). -/
def deliver (w : Word) (s : State) : Answer :=
  match decode w with
  | .legal i => exec i s
  | .illegal _ => .next s

/-- The step: the first undelivered word is consumed and executed. With none the block waits and its
state holds (60_exceptions.md R332, 70_reset_and_hazards.md R351). -/
def takeCommand (s : State) : Answer :=
  match s.inbox with
  | [] => .next s
  | w :: ws => deliver w (s.setInbox ws)

/-- `s` with the word `w` the next one to be taken from the input stream. -/
def placeWord (s : State) (w : Word) : State := s.setInbox (w :: s.inbox)

end Sys2Proof.Machine
end

