-- ==== Sys2Proof/Machine/Step.lean ====
section
/-! DEFINITION. One step of the block: one command (00_scope.md R5). -/

namespace Sys2Proof.Machine

/-- One step. -/
def step : State → Host.Outcome State Fault Refusal := takeCommand

/-- `s` with the instruction whose bits are `w`, numbered as the opcode table numbers them, delivered
as the next command word. Every command is one 64-bit word (30_encoding.md R80), so the bits above
`nbits` are the zeros of that word. Log 8. -/
def State.withFetchWord (s : State) (_nbits w : Nat) : State := placeWord s (BitVec.ofNat 64 w)

end Sys2Proof.Machine
end

