-- ==== Sys2Proof/Machine/Exact.lean ====
section
/-! DEFINITION. The block over the exact reals, the spec's own arithmetic (00_scope.md R4, R6,
40_numeric_primitives.md R111), as a value of the same configuration record: its commands and its step
are those of Machine/Block.lean. Real functions have no program, so these values are `noncomputable`; the
executable block is `std` of Machine/Standard.lean. -/

namespace Sys2Proof.Machine

/-- `NUM` with the mathematical functions (R111); a stored number is kept as it is. -/
noncomputable def realNum : Numerics ℝ where
  pow2 := fun x => (2 : ℝ) ^ x
  sin := Real.sin
  cos := Real.cos
  exp := Real.exp
  sqrt := Real.sqrt
  pi := Real.pi
  store := fun x => x

/-- The exact block, for every value of the parameters that R4 leaves open: `N_VOICES`, `CHUNK`,
`OSC2_PW`, `P_RESET`, the draws, the seeds. -/
noncomputable def exactBlock (nVoices chunk : Nat) (osc2Pw : ℝ) (pReset : Params ℝ) (draw : Nat → ℝ)
    (seed : Nat → Nat) : Config ℝ :=
  { standard realNum draw seed with
    nVoices := nVoices
    chunk := chunk
    osc2Pw := osc2Pw
    pReset := pReset }

end Sys2Proof.Machine
end

