-- ==== Sys2Proof/Machine/Stream.lean ====
section
/-! DEFINITION. The forms of the output stream: a frame as one 64-bit item (30_encoding.md R89), its
bytes, and the stream of a state as items and as bytes (20_memory.md R61), in the order of emission. -/

namespace Sys2Proof.Machine

/-- R89: `{right, left}`, left in bits 31:0. -/
def Frame.item (f : Frame) : Word := (f.right ++ f.left : BitVec (32 + 32))

/-- The frame that a 64-bit item stands for. -/
def Frame.ofItem (w : Word) : Frame := ⟨w.extractLsb' 0 32, w.extractLsb' 32 32⟩

/-- R61: the bytes of a frame, the least significant first, and so those of `left` first (R89). -/
def Frame.bytes (f : Frame) : List Byte := wordBytes f.item

/-- Reading a frame from a byte stream: the frame of the first eight bytes and the bytes after it, none
where fewer are left. -/
def readFrame : List Byte → Option (Frame × List Byte)
  | b0 :: b1 :: b2 :: b3 :: b4 :: b5 :: b6 :: b7 :: rest =>
    some (Frame.ofItem (bytesWord b0 b1 b2 b3 b4 b5 b6 b7), rest)
  | _ => none

variable {α : Type}

/-- The output stream as 64-bit items, the first emitted first (R89). -/
def StateOf.outputItems (s : StateOf α) : List Word := s.frames.reverse.map Frame.item

/-- The output stream as bytes (R61). -/
def StateOf.outputBytes (s : StateOf α) : List Byte := s.frames.reverse.flatMap Frame.bytes

end Sys2Proof.Machine
end

