-- ==== Sys2Proof/Safety.lean ====
section
/-! DEFINITION. What the model assumes of its arithmetic and of its configuration (00_scope.md R6,
40_numeric_primitives.md R111), the invariants of every reachable state (10_state.md R22, R40), and what
a safe step is: the block has no fault and never halts (00_scope.md R5, 60_exceptions.md R320). -/

namespace Sys2Proof

open Machine

section
variable {α : Type} [Field α] [LinearOrder α]

/-- The properties assumed of the arithmetic `NUM`: the values that 40_numeric_primitives.md R111 names,
the law of the powers of two for an integer summand, and the ranges. They hold of the rationals of
Machine/Rational.lean and of the reals. -/
structure Numerics.Assumed (N : Numerics α) : Prop where
  pow2_zero : N.pow2 0 = 1
  pow2_add_int : ∀ (x : α) (n : Int), N.pow2 (x + n) = N.pow2 x * (2 : α) ^ n
  pow2_pos : ∀ x, 0 < N.pow2 x
  pow2_le : ∀ (x : α) (n : Int), x ≤ n → N.pow2 x ≤ (2 : α) ^ n
  le_pow2 : ∀ (x : α) (n : Int), (n : α) ≤ x → (2 : α) ^ n ≤ N.pow2 x
  pi_pos : 0 < N.pi
  sin_zero : N.sin 0 = 0
  sin_half_pi : N.sin (N.pi / 2) = 1
  cos_zero : N.cos 0 = 1
  cos_half_pi : N.cos (N.pi / 2) = 0
  cos_pi : N.cos N.pi = -1
  sin_mem : ∀ x, -1 ≤ N.sin x ∧ N.sin x ≤ 1
  cos_mem : ∀ x, -1 ≤ N.cos x ∧ N.cos x ≤ 1
  exp_zero : N.exp 0 = 1
  exp_pos : ∀ x, 0 < N.exp x
  exp_le_one : ∀ x, x ≤ 0 → N.exp x ≤ 1
  sqrt_pos : ∀ x, 1 ≤ x → 0 < N.sqrt x
  sqrt_sq_le : ∀ x, 0 ≤ x → N.sqrt x * N.sqrt x ≤ x
  store_neg : ∀ x, N.store (-x) = -N.store x
  store_mem : ∀ x, 0 ≤ x → 0 ≤ N.store x ∧ N.store x ≤ x

/-- The further laws of the exact functions (R111), which the rationals of Machine/Rational.lean meet only
nearly. -/
structure Numerics.Exact (N : Numerics α) : Prop extends Numerics.Assumed N where
  pow2_add : ∀ a b, N.pow2 (a + b) = N.pow2 a * N.pow2 b
  exp_add : ∀ a b, N.exp (a + b) = N.exp a * N.exp b
  sin_add : ∀ a b, N.sin (a + b) = N.sin a * N.cos b + N.cos a * N.sin b
  cos_add : ∀ a b, N.cos (a + b) = N.cos a * N.cos b - N.sin a * N.sin b
  sqrt_sq : ∀ x, 0 ≤ x → N.sqrt x * N.sqrt x = x
  store_eq : ∀ x, N.store x = x

end

namespace Machine

variable {α : Type} [Field α] [LinearOrder α] [FloorRing α]

/-- A unary: a number in [0, 1] (10_state.md R22). -/
def IsUnary (x : α) : Prop := 0 ≤ x ∧ x ≤ 1

/-- A bipolar value: a number in [-1, 1] (40_numeric_primitives.md R110, 44_lfo.md R225). -/
def IsBipolar (x : α) : Prop := -1 ≤ x ∧ x ≤ 1

/-- A phase: a number in [0, 1). -/
def IsPhase (x : α) : Prop := 0 ≤ x ∧ x < 1

/-- The largest magnitude `softClip(x, a)` takes: `a * cubic(sqrt 2)`, the rule's `a * (2/3) * sqrt 2`
at the arithmetic's `sqrt 2` (40_numeric_primitives.md R108; log 1). -/
def clipBound (c : Config α) (a : α) : α := a * c.cubic (clipLimit c)

/-- R22: every unary register is in [0, 1]. The types of the other registers hold by construction. -/
structure Params.Inv (p : Params α) : Prop where
  osc1Octave : IsUnary p.osc1Octave
  osc1PwMix : IsUnary p.osc1PwMix
  osc1Volume : IsUnary p.osc1Volume
  osc2Octave : IsUnary p.osc2Octave
  osc2Detune : IsUnary p.osc2Detune
  osc2Volume : IsUnary p.osc2Volume
  filterCutoff : IsUnary p.filterCutoff
  filterPeak : IsUnary p.filterPeak
  filterEnvMod : IsUnary p.filterEnvMod
  ampAttack : IsUnary p.ampAttack
  ampDecay : IsUnary p.ampDecay
  ampSustain : IsUnary p.ampSustain
  ampRelease : IsUnary p.ampRelease
  lfoRate : IsUnary p.lfoRate
  lfoDepth : IsUnary p.lfoDepth
  modAttack : IsUnary p.modAttack
  modDecay : IsUnary p.modDecay
  modAmount : IsUnary p.modAmount
  glide : IsUnary p.glide
  masterVolume : IsUnary p.masterVolume

end Machine

section
variable {α : Type} [Field α] [LinearOrder α]

/-- The properties assumed of a configuration: of its open parameters what 00_scope.md R4 says of them,
and of its functions the ranges that the invariant rests on. -/
structure Config.Lawful (c : Config α) : Prop where
  num : c.num.Assumed
  nVoices : 1 ≤ c.nVoices
  chunk : 1 ≤ c.chunk
  pReset : c.pReset.Inv
  draw : ∀ n, IsBipolar (c.draw n)
  lfoRateMin : 0 ≤ c.lfoRateMin
  lfoRateMax : 0 ≤ c.lfoRateMax
  aOut : 0 ≤ c.aOut
  aMaster : 0 ≤ c.aMaster
  cubic_neg : ∀ u, c.cubic (-u) = -c.cubic u
  cubic_mono : ∀ u w, -clipLimit c ≤ u → u ≤ w → w ≤ clipLimit c → c.cubic u ≤ c.cubic w
  ease : ∀ u, IsUnary u → IsUnary (c.ease c.curveParam u)
  lfoWave : ∀ w phase sh, IsPhase phase → IsBipolar sh → IsBipolar (c.lfoWave w phase sh)

end

namespace Machine

variable {α : Type} [Field α] [LinearOrder α] [FloorRing α]

/-- R40 for one voice (`note` is in 0..127 by its type), with the ranges of R29 and R32 for the two
kinds of `sh`. -/
structure Voice.Inv (c : Config α) (v : Voice α) : Prop where
  osc1Phase : IsPhase v.osc1.phase
  osc2Phase : IsPhase v.osc2.phase
  lfoPhase : IsPhase v.lfo.phase
  osc1Sh : IsBipolar v.osc1.sh
  osc2Sh : IsBipolar v.osc2.sh
  lfoSh : IsBipolar v.lfo.sh
  ampLevel : IsUnary v.ampEg.level
  ampRelStart : IsUnary v.ampEg.relStart
  modLevel : IsUnary v.modEg.level
  modRelStart : IsUnary v.modEg.relStart
  clickGain : IsUnary v.clickGain
  lfoOut : IsBipolar v.lfoOut
  prevOut : -clipBound c c.aOut ≤ v.filt.prevOut ∧ v.filt.prevOut ≤ clipBound c c.aOut
  gateOnUptime : 0 ≤ v.gateOnUptime
  gateOffUptime : 0 ≤ v.gateOffUptime

/-- R40: the invariant of every reachable state, with the two lengths that 10_state.md R20 and R33
give. -/
structure StateOf.Inv (c : Config α) (s : StateOf α) : Prop where
  params : s.params.Inv
  voices : ∀ v ∈ s.voices, v.Inv c
  nVoices : s.voices.length = c.nVoices
  cursor : s.cursor < c.chunk
  chunkLength : s.chunk.length = c.chunk
  chunk : ∀ x ∈ s.chunk, -clipBound c c.aMaster ≤ x ∧ x ≤ clipBound c c.aMaster
  rate : s.prepared = true → 0 < s.sampleRate

/-- The invariant of the executable block. -/
abbrev State.Inv (s : State) : Prop := s.toStateOf.Inv std

/-- A safe state: it meets the invariant, and the next step neither faults nor refuses. -/
def State.Safe (s : State) : Prop := s.Inv ∧ ∃ t, step s = .next t

/-! ## What no rule reads (10_state.md R23, R29, R33, R110) -/

/-- Two register files that differ at most in the five registers without a reader (10_state.md R23). -/
def Params.AgreeOnRead (p q : Params α) : Prop :=
  { p with
    filterType := q.filterType
    filterEnvMod := q.filterEnvMod
    glide := q.glide
    voicingMode := q.voicingMode
    masterVolume := q.masterVolume } = q

/-- Two voices that differ at most in the seed (10_state.md R28) and the oscillators' held values
(R29). -/
def Voice.AgreeOnRead (v w : Voice α) : Prop :=
  { v with
    seed := w.seed
    osc1 := { v.osc1 with sh := w.osc1.sh }
    osc2 := { v.osc2 with sh := w.osc2.sh } } = w

/-- Two states that differ at most in what no rule reads: those registers, those voice fields, and
`maxFrames` (10_state.md R33). The frames they have emitted are the same. -/
structure State.AgreeOnRead (s t : State) : Prop where
  params : s.params.AgreeOnRead t.params
  voices : List.Forall₂ Voice.AgreeOnRead s.voices t.voices
  rest : { s with params := t.params, voices := t.voices, maxFrames := t.maxFrames } = t

end Machine

end Sys2Proof
end

