-- ==== Sys2Proof/Certificates/Slice0/Obligations.lean ====
section
/-! DEFINITION. The statements about the block, for the provers. `exec` and `step` are the executable
block's, at the configuration `std` (the spec's default parameters over the arithmetic of log 1);
`CHUNK` is `std.chunk`. A command's operands are the fields `a` and `f` of its word, and a record
`{ s with ... }` as an answer states the command's frame: every field it does not name is unchanged. The
block has no byte-addressed memory and no exception (20_memory.md R60, 60_exceptions.md R320), so no
statement speaks of either. -/

open Sys2Proof Sys2Proof.Machine

/-! ## Encoding and the command stream -/

/-- 30_encoding.md R90: the rows of its table of worked encodings (which R90 itself derives from R81 to
R83), both ways. -/
def Obligations.WorkedWordsDecode : Prop :=
  (f32Value 0x473B8000 = some (.finite 48000) ∧ f32Value 0x3F800000 = some (.finite 1) ∧
    f32Value 0x3F000000 = some (.finite (1 / 2))) ∧
  (decode 0x01000080473B8000 = .legal (.prepare 0x473B8000 128) ∧
    encode (.prepare 0x473B8000 128) = 0x01000080473B8000) ∧
  (decode 0x020000013F800000 = .legal (.setparam 1 0x3F800000) ∧
    encode (.setparam 1 0x3F800000) = 0x020000013F800000) ∧
  (decode 0x0200000C3F000000 = .legal (.setparam 12 0x3F000000) ∧
    encode (.setparam 12 0x3F000000) = 0x0200000C3F000000) ∧
  (decode 0x0300003C3F800000 = .legal (.noteon 60 0x3F800000) ∧
    encode (.noteon 60 0x3F800000) = 0x0300003C3F800000) ∧
  (decode 0x0400003C00000000 = .legal (.noteoff 60) ∧
    encode (.noteoff 60) = 0x0400003C00000000) ∧
  (decode 0x0500008000000000 = .legal (.process 128) ∧
    encode (.process 128) = 0x0500008000000000) ∧
  (∀ a f, ∃ why, decode (formatC 0x00 a f) = .illegal why) ∧
  (∀ f, ∃ why, decode (formatC 0x03 0x0080 f) = .illegal why) ∧
  (∃ why, decode 0x0501008000000000 = .illegal why)

/-- 30_encoding.md R81, R83, R88: no bit of an operand is lost, for every well-formed command. -/
def Obligations.DecodeOfEncodeIsTheCommand : Prop :=
  ∀ i : Instr, i.wellFormed = true → decode (encode i) = .legal i

/-- 30_encoding.md R81, R83, R88: a legal word is the encoding of the command it decodes to, so no two
words stand for one command. -/
def Obligations.LegalWordIsItsCommandsEncoding : Prop :=
  ∀ (w : Word) (i : Instr), decode w = .legal i → i.wellFormed = true ∧ encode i = w

/-- 30_encoding.md R88: a word is a row's command iff `W & mask = match`, with its operands the fields
`f` and `a` of R81, and a word that matches no row is illegal. -/
def Obligations.TableMasksSelectTheCommand : Prop :=
  ∀ w : Word,
    (decode w = .legal (.prepare (w.extractLsb' 0 32) (w.extractLsb' 32 16)) ↔
      w &&& 0xFFFF000000000000 = 0x0100000000000000) ∧
    (decode w = .legal (.setparam (w.extractLsb' 32 16) (w.extractLsb' 0 32)) ↔
      w &&& 0xFFFF000000000000 = 0x0200000000000000) ∧
    (decode w = .legal (.noteon (w.extractLsb' 32 16) (w.extractLsb' 0 32)) ↔
      w &&& 0xFFFFFF8000000000 = 0x0300000000000000) ∧
    (decode w = .legal (.noteoff (w.extractLsb' 32 16)) ↔
      w &&& 0xFFFFFF80FFFFFFFF = 0x0400000000000000) ∧
    (decode w = .legal (.process (w.extractLsb' 32 16)) ↔
      w &&& 0xFFFF0000FFFFFFFF = 0x0500000000000000) ∧
    ((∃ why, decode w = .illegal why) ↔
      w &&& 0xFFFF000000000000 ≠ 0x0100000000000000 ∧
      w &&& 0xFFFF000000000000 ≠ 0x0200000000000000 ∧
      w &&& 0xFFFFFF8000000000 ≠ 0x0300000000000000 ∧
      w &&& 0xFFFFFF80FFFFFFFF ≠ 0x0400000000000000 ∧
      w &&& 0xFFFF0000FFFFFFFF ≠ 0x0500000000000000)

/-- 20_memory.md R61, 30_encoding.md R89: a word carried as bytes, least significant first, decodes as the
word; a frame as one 64-bit item is `{right, left}`, left in bits 31:0; its bytes are those of the left
pattern and then those of the right, least significant first, and read back as the frame; and a frame
goes out after the bytes of all earlier ones. The list of emitted frames is the model's own, newest
first: log 9. -/
def Obligations.SerialisedWordDecodesAsTheWord : Prop :=
  (∀ (w : Word) (rest : List Byte), decodeBytes (wordBytes w ++ rest) = some (decode w, rest)) ∧
  (∀ f : Frame, f.item.extractLsb' 0 32 = f.left ∧ f.item.extractLsb' 32 32 = f.right ∧
    Frame.ofItem f.item = f) ∧
  (∀ f : Frame, f.bytes =
    [f.left.extractLsb' 0 8, f.left.extractLsb' 8 8, f.left.extractLsb' 16 8, f.left.extractLsb' 24 8,
     f.right.extractLsb' 0 8, f.right.extractLsb' 8 8, f.right.extractLsb' 16 8,
     f.right.extractLsb' 24 8]) ∧
  (∀ (f : Frame) (rest : List Byte), readFrame (f.bytes ++ rest) = some (f, rest)) ∧
  (∀ (s : State) (f : Frame),
    { s with frames := f :: s.frames }.outputBytes = s.outputBytes ++ f.bytes ∧
    { s with frames := f :: s.frames }.outputItems = s.outputItems ++ [f.item])

/-- 00_scope.md R5: the step takes the first delivered word and executes its command; delivering a
word (`withFetchWord`) makes it that word. The list of undelivered words is the model's own: log 8. -/
def Obligations.StepRunsTheDecodedCommand : Prop :=
  (∀ (s : State) (w : Word) (ws : List Word) (i : Instr),
    s.inbox = w :: ws → decode w = .legal i → step s = exec i { s with inbox := ws }) ∧
  (∀ (s : State) (w : Word) (i : Instr),
    decode w = .legal i → step (s.withFetchWord 64 w.toNat) = exec i s)

/-- 60_exceptions.md R332: with no command delivered the block holds its state. That a step then answers
the state itself is the model's choice: log 8. -/
def Obligations.StepWithoutACommandHoldsTheState : Prop :=
  ∀ s : State, s.inbox = [] → step s = .next s

/-- 30_encoding.md R84: an illegal word is consumed and changes nothing else, and so do the legal
words that R84 lists as no-ops. -/
def Obligations.IllegalAndIdleWordsChangeNothing : Prop :=
  (∀ (s : State) (w : Word) (ws : List Word) (why : Illegal),
    s.inbox = w :: ws → decode w = .illegal why → step s = .next { s with inbox := ws }) ∧
  (∀ (key : Half) (value : F32) (s : State),
    32 < key.toNat → exec (.setparam key value) s = .next s) ∧
  (∀ (key : Half) (value : F32) (s : State),
    f32Value value = none → exec (.setparam key value) s = .next s) ∧
  (∀ (f : F32) (a : Half) (s : State),
    (∀ r : Rat, f32Value f = some (.finite r) → r ≤ 0) → exec (.prepare f a) s = .next s) ∧
  (∀ (n : Half) (velocity : F32) (s : State),
    s.prepared = false → exec (.noteon n velocity) s = .next s) ∧
  (∀ (n : Half) (s : State),
    (∀ v ∈ s.voices, v.note.val ≠ n.toNat) → exec (.noteoff n) s = .next s) ∧
  (∀ s : State, exec (.process 0) s = .next s)

/-- 60_exceptions.md R320, 70_reset_and_hazards.md R350: no step faults, refuses or waits for ever. -/
def Obligations.EveryStepAnswersANextState : Prop :=
  ∀ s : State, ∃ t : State, step s = .next t

/-! ## PREPARE and SETPARAM -/

/-- 47_engine_commands.md R280, 42_filter.md R162: an accepted PREPARE, completely, and with what it leaves
alone: the rate, the block size, `prepared`, and every voice's highpass coefficient
`1 - exp(-2 pi * 40 / rate)`. The exponential and pi are the model's: log 1. -/
def Obligations.PrepareSetsRateAndHighpass : Prop :=
  ∀ (f : F32) (a : Half) (r : Rat) (s : State),
    f32Value f = some (.finite r) → 0 < r →
    exec (.prepare f a) s = .next
      { s with
        sampleRate := r
        maxFrames := a
        prepared := true
        voices := s.voices.map (fun v =>
          { v with filt := { v.filt with hpG := 1 - std.num.exp (-(2 * std.num.pi * 40 / r)) } }) }

/-- 42_filter.md R162: the highpass coefficient is below 1 for every positive rate, above 0 for every rate
below 2^128, which is every rate a binary32 can give, and within 1e-9 of the real
`1 - exp(-2 pi * 40 / rate)` (the tolerance is the model's choice, log 1; D0's own for a sample is 1e-6). -/
def Obligations.HighpassCoefficientIsAFraction : Prop :=
  ∀ rate : Scalar, 0 < rate →
    std.hpCoef 40 rate < 1 ∧ (rate < 2 ^ 128 → 0 < std.hpCoef 40 rate) ∧
    |((std.hpCoef 40 rate : Scalar) : ℝ) - (1 - Real.exp (-(2 * Real.pi * 40 / (rate : ℝ))))| ≤ 1 / 10 ^ 9

/-- 47_engine_commands.md R281, 20_memory.md R63: SETPARAM of a mapped key and a value that is no NaN
writes that register, converted to its type, and changes nothing else. -/
def Obligations.SetparamWritesExactlyOneRegister : Prop :=
  ∀ (key : Half) (value : F32) (x : ExtNum) (ty : ParamType) (s : State),
    f32Value value = some x → paramType key.toNat = some ty →
    ∃ p : Params Scalar, exec (.setparam key value) s = .next { s with params := p } ∧
      p.read key.toNat = some (x.convert ty) ∧
      ∀ k : Nat, k ≠ key.toNat → p.read k = s.params.read k

/-- 47_engine_commands.md R281: the conversions to the three register types, the infinities to the
ends of the range. -/
def Obligations.ParameterConversionsFollowTheTypes : Prop :=
  (∀ x : Rat, ((ExtNum.finite x).convert .unary : ParamValue Scalar) = .unary (max 0 (min x 1))) ∧
  (∀ x : Rat, ((ExtNum.finite x).convert .bool : ParamValue Scalar) = .bool (decide (1 / 2 ≤ x))) ∧
  (∀ (x : Rat) (top : Nat), ∃ n : Nat,
    ((ExtNum.finite x).convert (.enum top) : ParamValue Scalar) = .enum n ∧
    (n : Int) = max 0 (min ⌊x + 1 / 2⌋ (top : Int))) ∧
  (∀ top : Nat, (ExtNum.posInf.convert .unary : ParamValue Scalar) = .unary 1 ∧
    (ExtNum.negInf.convert .unary : ParamValue Scalar) = .unary 0 ∧
    (ExtNum.posInf.convert .bool : ParamValue Scalar) = .bool true ∧
    (ExtNum.negInf.convert .bool : ParamValue Scalar) = .bool false ∧
    (ExtNum.posInf.convert (.enum top) : ParamValue Scalar) = .enum top ∧
    (ExtNum.negInf.convert (.enum top) : ParamValue Scalar) = .enum 0)

/-- 10_state.md R21, R22: the table of the registers. Each key 0 to 32 reads as the register the table names
and has the type the table gives, a larger key as nothing; the members of the enumerations have the numbers
of R24, R25 and R27. So a mapped register always reads as a content of its type: a unary register as a
unary, in [0, 1] where the registers meet the invariant; a bool register as a Boolean; an enum register as a
number of its range. -/
def Obligations.ParameterSpaceHasThirtyThreeRegisters : Prop :=
  (List.range 33).map paramType =
    [some .bool, some (.enum 4), some .unary, some .unary, some .unary,
      some .bool, some (.enum 4), some .unary, some .unary, some .unary,
      some .bool, some (.enum 2), some .unary, some .unary, some .unary,
      some .bool, some .unary, some .unary, some .unary, some .unary,
      some .bool, some (.enum 4), some .unary, some .unary, some (.enum 7),
      some .bool, some .unary, some .unary, some .unary, some (.enum 7),
      some .unary, some (.enum 1), some .unary] ∧
  (∀ k : Nat, (paramType k).isSome = true ↔ k ≤ 32) ∧
  [OscWave.saw, .rectangle, .triangle, .sine, .noise].map OscWave.index = [0, 1, 2, 3, 4] ∧
  [LfoWave.sine, .triangle, .rectangle, .descendingSaw, .sampleAndHold].map LfoWave.index =
    [0, 1, 2, 3, 4] ∧
  [FilterType.type0, .type1, .type2].map FilterType.index = [0, 1, 2] ∧
  [Voicing.mono, .poly].map Voicing.index = [0, 1] ∧
  ∀ p : Params Scalar,
    (List.range 33).map p.read =
      [some (.bool p.osc1On), some (.enum p.osc1Wave.index), some (.unary p.osc1Octave),
        some (.unary p.osc1PwMix), some (.unary p.osc1Volume),
        some (.bool p.osc2On), some (.enum p.osc2Wave.index), some (.unary p.osc2Octave),
        some (.unary p.osc2Detune), some (.unary p.osc2Volume),
        some (.bool p.filterOn), some (.enum p.filterType.index), some (.unary p.filterCutoff),
        some (.unary p.filterPeak), some (.unary p.filterEnvMod),
        some (.bool p.ampOn), some (.unary p.ampAttack), some (.unary p.ampDecay),
        some (.unary p.ampSustain), some (.unary p.ampRelease),
        some (.bool p.lfoOn), some (.enum p.lfoWave.index), some (.unary p.lfoRate),
        some (.unary p.lfoDepth), some (.enum p.lfoTarget.val),
        some (.bool p.modOn), some (.unary p.modAttack), some (.unary p.modDecay),
        some (.unary p.modAmount), some (.enum p.modTarget.val),
        some (.unary p.glide), some (.enum p.voicingMode.index), some (.unary p.masterVolume)] ∧
    ∀ k : Nat,
      (paramType k = none → p.read k = none) ∧
      (paramType k = some .unary →
        ∃ x : Scalar, p.read k = some (.unary x) ∧ (p.Inv → 0 ≤ x ∧ x ≤ 1)) ∧
      (paramType k = some .bool → ∃ b : Bool, p.read k = some (.bool b)) ∧
      (∀ top : Nat, paramType k = some (.enum top) → ∃ n : Nat, p.read k = some (.enum n) ∧ n ≤ top)

/-- 47_engine_commands.md R289 (which the spec derives from R281): a second SETPARAM with the same
operands changes no state element. -/
def Obligations.SetparamTwiceIsSetparamOnce : Prop :=
  ∀ (key : Half) (value : F32) (s : State), ∃ t : State,
    exec (.setparam key value) s = .next t ∧ exec (.setparam key value) t = .next t

/-! ## NOTEON, NOTEOFF and the stealing policy -/

/-- 47_engine_commands.md R282, 46_voice.md R261: NOTEON in a prepared block starts the note on the
stolen voice and leaves everything else, that voice's envelopes, snapshot and held values included. The
seed is a free value: log 7. -/
def Obligations.NoteonStartsTheStolenVoice : Prop :=
  ∀ (a : Half) (velocity : F32) (n : Fin 128) (s : State),
    a.toNat = n.val → s.prepared = true →
    exec (.noteon a velocity) s = .next
      { s with
        voices := s.voices.modify (steal s.voices) (fun v =>
          { v with
            note := n
            gateOn := true
            gateOnUptime := 0
            gateOffUptime := 0
            seed := Config.freeSeed s.seedCount
            osc1 := { v.osc1 with phase := 0 }
            osc2 := { v.osc2 with phase := 0 }
            filt := { v.filt with z1 := 0, z2 := 0, prevOut := 0, hpLp := 0 }
            lfo := { v.lfo with phase := 0 } })
        seedCount := s.seedCount + 1 }

/-- 47_engine_commands.md R283: the least index among the released voices with the largest
`gateOffUptime`, or, with none released, among all voices with the largest `gateOnUptime`. -/
def Obligations.StealPrefersTheLongestReleased : Prop :=
  ∀ vs : List (Voice Scalar), vs ≠ [] → ∃ v : Voice Scalar, vs[steal vs]? = some v ∧
    ((∃ w ∈ vs, w.gateOn = false) →
      v.gateOn = false ∧
      (∀ w ∈ vs, w.gateOn = false → w.gateOffUptime ≤ v.gateOffUptime) ∧
      (∀ (j : Nat) (w : Voice Scalar), j < steal vs → vs[j]? = some w → w.gateOn = false →
        w.gateOffUptime < v.gateOffUptime)) ∧
    ((∀ w ∈ vs, w.gateOn = true) →
      (∀ w ∈ vs, w.gateOnUptime ≤ v.gateOnUptime) ∧
      (∀ (j : Nat) (w : Voice Scalar), j < steal vs → vs[j]? = some w → w.gateOnUptime < v.gateOnUptime))

/-- 47_engine_commands.md R284, 46_voice.md R262: NOTEOFF releases every voice with the note, gated or
not, prepared or not, and changes nothing else. -/
def Obligations.NoteoffReleasesEveryVoiceOfTheNote : Prop :=
  ∀ (a : Half) (n : Fin 128) (s : State), a.toNat = n.val →
    exec (.noteoff a) s = .next
      { s with
        voices := s.voices.map (fun v =>
          if v.note = n then { v with gateOn := false, gateOffUptime := 0 } else v) }

/-! ## PROCESS -/

/-- 47_engine_commands.md R285, R290: before PREPARE, PROCESS emits its frames as zeros and changes
nothing else. The list of emitted frames is the model's own, newest first: log 9. -/
def Obligations.UnpreparedProcessEmitsSilence : Prop :=
  ∀ (a : Half) (s : State), s.prepared = false →
    exec (.process a) s = .next
      { s with frames := List.replicate a.toNat { left := 0, right := 0 } ++ s.frames }

/-- 47_engine_commands.md R285, 30_encoding.md R89: PROCESS emits exactly its count of frames after
those already emitted, the right half a copy of the left, and moves the cursor by as many modulo
`CHUNK`. -/
def Obligations.ProcessEmitsExactlyItsFrames : Prop :=
  ∀ (a : Half) (s : State), s.prepared = true → s.cursor < std.chunk →
    ∃ (t : State) (new : List Frame), exec (.process a) s = .next t ∧
      t.frames = new ++ s.frames ∧ new.length = a.toNat ∧ (∀ f ∈ new, f.right = f.left) ∧
      t.cursor = (s.cursor + a.toNat) % std.chunk

/-- 47_engine_commands.md R285, 70_reset_and_hazards.md R353: inside a chunk PROCESS hands out the
entries from the cursor on, as they were rendered, and touches nothing but the cursor and the
stream. -/
def Obligations.ProcessHandsOutTheChunkRemainder : Prop :=
  ∀ (a : Half) (s : State), s.prepared = true → s.chunk.length = std.chunk → 0 < s.cursor →
    s.cursor < std.chunk → s.cursor + a.toNat ≤ std.chunk →
    exec (.process a) s = .next
      { s with
        cursor := (s.cursor + a.toNat) % std.chunk
        frames := (((s.chunk.drop s.cursor).take a.toNat).map
          (fun x => { left := toF32 x, right := toF32 x })).reverse ++ s.frames }

/-- 47_engine_commands.md R285: with the cursor at 0, PROCESS of up to one chunk regenerates once and
hands out the new chunk from its start. -/
def Obligations.ProcessAtCursorZeroRegeneratesOnce : Prop :=
  ∀ (a : Half) (s : State), s.prepared = true → s.cursor = 0 → 0 < a.toNat →
    a.toNat ≤ std.chunk →
    exec (.process a) s = .next
      { regenerate std s.toStateOf with
        cursor := a.toNat % std.chunk
        frames := (((regenerate std s.toStateOf).chunk.take a.toNat).map
          (fun x => { left := toF32 x, right := toF32 x })).reverse ++ s.frames }

/-- 47_engine_commands.md R286, 46_voice.md R260: a regeneration renders every voice in index order,
each from its own state and the registers, with the draws in that order, and the chunk is the clipped,
scaled sum of the voices' buffers. It writes the voices, the chunk and the draw count only. The square
root is the model's: log 1; the draws are free values: log 6. -/
def Obligations.ChunkIsTheClippedSumOfTheVoices : Prop :=
  ∀ s : StateOf Scalar, ∃ draws : Nat → Nat,
    draws 0 = s.drawCount ∧ (regenerate std s).drawCount = draws s.voices.length ∧
    (regenerate std s).voices.length = s.voices.length ∧
    (∀ (i : Nat) (v : Voice Scalar), s.voices[i]? = some v →
      (regenerate std s).voices[i]? = some (voiceRender std s.params s.sampleRate v (draws i)).2.1 ∧
      draws (i + 1) = (voiceRender std s.params s.sampleRate v (draws i)).2.2) ∧
    (regenerate std s).chunk.length = std.chunk ∧
    (∀ n : Nat, n < std.chunk →
      (regenerate std s).chunk.getD n 0 =
        softClip std (((s.voices.zipIdx.map (fun vi =>
          (voiceRender std s.params s.sampleRate vi.1 (draws vi.2)).1.getD n 0)).sum)
            * (1 / std.num.sqrt (std.nVoices : Scalar))) 1) ∧
    regenerate std s =
      { s with
        voices := (regenerate std s).voices
        chunk := (regenerate std s).chunk
        drawCount := (regenerate std s).drawCount }

/-- 47_engine_commands.md R288 (D0's continuity property; that it holds exactly, the spec derives from
R285): however consecutive PROCESS commands split a number of frames, the frames and the final state
are those of one PROCESS. The words come from the model's list of undelivered words: log 8. -/
def Obligations.SplittingProcessChangesNothing : Prop :=
  ∀ (counts : List Half) (rest : List Word) (s : State),
    (counts.map BitVec.toNat).sum < 65536 →
    s.inbox = counts.map (fun a => encode (.process a)) ++ rest →
    Sys2Proof.core.run counts.length s =
      exec (.process (BitVec.ofNat 16 (counts.map BitVec.toNat).sum)) { s with inbox := rest }

/-- 47_engine_commands.md R285, 46_voice.md R263, R264: what PROCESS leaves alone: the registers, the
engine's configuration, the input stream, and each voice's note, gate, seed and highpass coefficient. -/
def Obligations.ProcessKeepsRegistersNotesAndGates : Prop :=
  ∀ (a : Half) (s t : State), exec (.process a) s = .next t →
    t.params = s.params ∧ t.prepared = s.prepared ∧ t.sampleRate = s.sampleRate ∧
    t.maxFrames = s.maxFrames ∧ t.inbox = s.inbox ∧ t.seedCount = s.seedCount ∧
    t.voices.map (fun v => (v.note, v.gateOn, v.seed, v.filt.hpG)) =
      s.voices.map (fun v => (v.note, v.gateOn, v.seed, v.filt.hpG))

/-! ## Rules of the whole machine -/

/-- 20_memory.md R63, R64, 47_engine_commands.md R280 to R285: who writes what. Only SETPARAM writes a
register; only PREPARE the rate and the block size; only PROCESS the cursor, the chunk, the frames and
the draws; only NOTEON takes a seed. -/
def Obligations.EachCommandWritesOnlyItsOwnState : Prop :=
  ∀ (i : Instr) (s t : State), exec i s = .next t →
    ((∀ k x, i ≠ .setparam k x) → t.params = s.params) ∧
    ((∀ f a, i ≠ .prepare f a) →
      t.sampleRate = s.sampleRate ∧ t.maxFrames = s.maxFrames ∧ t.prepared = s.prepared) ∧
    ((∀ a, i ≠ .process a) →
      t.cursor = s.cursor ∧ t.chunk = s.chunk ∧ t.frames = s.frames ∧ t.drawCount = s.drawCount) ∧
    ((∀ a f, i ≠ .noteon a f) → t.seedCount = s.seedCount) ∧
    t.inbox = s.inbox ∧ t.voices.length = s.voices.length

/-- 10_state.md R36, 47_engine_commands.md R280: `prepared` is never cleared, and it is set only by a
PREPARE whose rate is finite and positive. -/
def Obligations.PreparedIsSetOnlyByPrepareAndNeverCleared : Prop :=
  ∀ (i : Instr) (s t : State), exec i s = .next t →
    (s.prepared = true → t.prepared = true) ∧
    (s.prepared = false → t.prepared = true →
      ∃ (f : F32) (a : Half) (r : Scalar), i = .prepare f a ∧ f32Value f = some (.finite r) ∧ 0 < r)

/-- 10_state.md R40 (which the spec derives from its other rules): the invariant of every reachable
state is kept by every step of the executable block, and by every step of the block over the real numbers
at every lawful configuration (`Config.Lawful`: any pool size and chunk length, any registers after reset,
any draws, any functions with the ranges assumed of them). The bound on the filter's and the chunk's
numbers is `clipBound`, in the executable block at the model's square root of 2: log 1. -/
def Obligations.StepKeepsTheInvariant : Prop :=
  (∀ s t : State, s.Inv → step s = .next t → t.Inv) ∧
  (∀ (c : Config ℝ) (s : StateOf ℝ), c.Lawful → s.Inv c → (blockStep c s).Inv c)

/-- 10_state.md R39, R40: the reset state meets the invariant (`P_RESET` and the three unspecified
elements are the model's values of log 4 and log 5; the statement says only that they are within their
types), and so does that of every lawful configuration over the real numbers. -/
def Obligations.ResetMeetsTheInvariant : Prop :=
  State.reset.Inv ∧ ∀ c : Config ℝ, c.Lawful → (StateOf.reset c).Inv c

/-- 10_state.md R39: the reset values the spec gives. Those it leaves unspecified (the registers,
`sampleRate`, `hpG`, `seed`) are not in the statement. The pool size and the chunk length are the defaults
of 00_scope.md R4: log 3. -/
def Obligations.ResetLeavesTheBlockIdle : Prop :=
  std.nVoices = 6 ∧ std.chunk = 32 ∧
  State.reset.prepared = false ∧ State.reset.maxFrames = 0 ∧ State.reset.cursor = 0 ∧
  State.reset.chunk = List.replicate std.chunk 0 ∧
  State.reset.voices.length = std.nVoices ∧
  ∀ v ∈ State.reset.voices,
    v.note = 0 ∧ v.gateOn = false ∧ v.gateOnUptime = 0 ∧ v.gateOffUptime = 0 ∧ v.clickGain = 1 ∧
    v.lfoOut = 0 ∧ v.osc1 = { phase := 0, sh := 0 } ∧ v.osc2 = { phase := 0, sh := 0 } ∧
    v.filt.z1 = 0 ∧ v.filt.z2 = 0 ∧ v.filt.prevOut = 0 ∧ v.filt.hpLp = 0 ∧
    v.ampEg = { level := 0, relStart := 0 } ∧ v.modEg = { level := 0, relStart := 0 } ∧
    v.lfo = { phase := 0, sh := 0 }

/-- 10_state.md R23, R29, R33, 40_numeric_primitives.md R110: the five registers without a reader, the
seeds, the oscillators' held values and `maxFrames` never reach a frame: states that differ in nothing
else stay so under every command, the emitted frames being equal. -/
def Obligations.UnreadStateNeverReachesAFrame : Prop :=
  ∀ (i : Instr) (s t s' t' : State), s.AgreeOnRead t →
    exec i s = .next s' → exec i t = .next t' → s'.AgreeOnRead t' ∧ s'.frames = t'.frames

/-- 47_engine_commands.md R291 (which the spec derives): from a state that meets the invariant, every
frame a step emits is a binary32 of magnitude at most `0x3F715BEF`, in both halves. -/
def Obligations.EmittedSamplesStayBelowOne : Prop :=
  ∀ s t : State, s.Inv → step s = .next t →
    ∃ new : List Frame, t.frames = new ++ s.frames ∧
      ∀ f ∈ new, f.right = f.left ∧ f.left.toNat % 2 ^ 31 ≤ 0x3F715BEF

/-- 47_engine_commands.md R291 (which the spec derives): with both oscillators off, no filter tail and
no rendered remainder, every frame is zero, whatever notes are played. The two conditions on the filter
and the chunk are the statement's own: R291 leaves them unsaid. -/
def Obligations.OscillatorsOffMeansSilence : Prop :=
  ∀ (a : Half) (s : State), s.params.osc1On = false → s.params.osc2On = false →
    (∀ v ∈ s.voices, v.filt.z1 = 0 ∧ v.filt.z2 = 0 ∧ v.filt.prevOut = 0 ∧ v.filt.hpLp = 0) →
    (∀ x ∈ s.chunk, x = 0) →
    ∃ t : State, exec (.process a) s = .next t ∧
      t.frames = List.replicate a.toNat { left := 0, right := 0 } ++ s.frames

/-! ## The voice and its units -/

/-- 70_reset_and_hazards.md R354, 43_envelope.md R199 (which the spec derives): the first chunk of a
note is silent for its voice. -/
def Obligations.FirstChunkOfANoteIsSilent : Prop :=
  ∀ (p : Params Scalar) (rate : Scalar) (v : Voice Scalar) (draws : Nat),
    v.gateOn = true → v.gateOnUptime = 0 →
    (voiceRender std p rate v draws).1 = List.replicate std.chunk 0

/-- 46_voice.md R263, R264: rendering advances only the uptime that matches the gate, by the length of a
chunk, and never the note, the gate, the seed or the highpass coefficient. `CHUNK` is 32: log 3. -/
def Obligations.RenderAdvancesTheMatchingUptime : Prop :=
  ∀ (p : Params Scalar) (rate : Scalar) (v w : Voice Scalar) (draws : Nat),
    w = (voiceRender std p rate v draws).2.1 →
    (v.gateOn = true → w.gateOnUptime = v.gateOnUptime + 32 / rate ∧
      w.gateOffUptime = v.gateOffUptime) ∧
    (v.gateOn = false → w.gateOffUptime = v.gateOffUptime + 32 / rate ∧
      w.gateOnUptime = v.gateOnUptime) ∧
    w.note = v.note ∧ w.gateOn = v.gateOn ∧ w.seed = v.seed ∧ w.filt.hpG = v.filt.hpG

/-- 46_voice.md R263: a rendering, whole. Step 1: the snapshot is computed from the uptimes and unit states
as they stood before it, with the envelopes' inputs of 43_envelope.md R191, R192 and the LFO's increment of
44_lfo.md R221. Step 2: oscillator 1 and then oscillator 2 into a cleared buffer, with the inputs of
41_oscillator.md R132, R133, R134, R142, a switched-off one touching nothing (R140). Step 3: with `filterOn`
the filter in place, at the routed cutoff and peak of 42_filter.md R163 to R166, else nothing (R169).
Step 4: times the amplitude level and the click gain. Step 5: the uptime. `CHUNK` is 32 and `OSC2_PW` 0:
log 3. -/
def Obligations.RenderTakesItsSnapshotFirst : Prop :=
  ∀ (p : Params Scalar) (rate : Scalar) (v v1 : Voice Scalar) (draws d1 : Nat)
    (freq1 freq2 det cut peak : Scalar) (r1 r2 : List Scalar × OscState Scalar × Nat)
    (r3 : List Scalar × FilterState Scalar),
    v1 = { v with
      ampEg := egAdvance std
        ⟨p.ampOn, p.ampAttack ^ 2 * 3, p.ampDecay ^ 2 * 3, p.ampSustain, p.ampRelease ^ 2 * 3⟩
        v.gateOn v.gateOnUptime v.gateOffUptime v.ampEg
      clickGain := clickGainOf std v.gateOn v.gateOnUptime
      modEg := egAdvance std
        ⟨p.modOn, p.modAttack ^ 2 * 3, p.modDecay ^ 2 * 3, 0, p.modDecay ^ 2 * 3⟩
        v.gateOn v.gateOnUptime v.gateOffUptime v.modEg
      lfo := (lfoStep std v.lfo ((1 / 100 + (10 - 1 / 100) * p.lfoRate) / rate * 32) draws).1
      lfoOut := lfoOutput std p.lfoWave
        (lfoStep std v.lfo ((1 / 100 + (10 - 1 / 100) * p.lfoRate) / rate * 32) draws).1 } →
    d1 = (lfoStep std v.lfo ((1 / 100 + (10 - 1 / 100) * p.lfoRate) / rate * 32) draws).2 →
    freq1 = oscFrequency std v.note (octaveShift p.osc1Octave) 0 (routePitch std p v1 .osc1Pitch) →
    det = routeUnary std p v1 p.osc2Detune .osc2Detune →
    freq2 = oscFrequency std v.note (octaveShift p.osc2Octave) (det ^ 2)
      (routePitch std p v1 .osc2Pitch) →
    r1 = (if p.osc1On = true then
        oscLoop std ⟨p.osc1Wave, freq1 / rate, routeUnary std p v1 p.osc1PwMix .osc1PwMix,
          routeUnary std p v1 p.osc1Volume .osc1Volume⟩ (List.replicate 32 0) v.osc1 d1
      else (List.replicate 32 0, v.osc1, d1)) →
    r2 = (if p.osc2On = true then
        oscLoop std ⟨p.osc2Wave, freq2 / rate, 0, routeUnary std p v1 p.osc2Volume .osc2Volume⟩
          r1.1 v.osc2 r1.2.2
      else (r1.1, v.osc2, r1.2.2)) →
    cut = routeUnary std p v1 p.filterCutoff .filterCutoff →
    peak = routeUnary std p v1 p.filterPeak .filterPeak →
    r3 = (if p.filterOn = true then
        filterLoop std ⟨std.biquadCoefs (normalizedCutoff std v.note cut rate)
          (1 / 2 + peak * (4 / 10) * (39 / 2)), peak * (4 / 10) * (1 - cut) * (9 / 10)⟩ r2.1 v.filt
      else (r2.1, v.filt)) →
    voiceRender std p rate v draws =
      (r3.1.map (fun x => x * (v1.ampEg.level * v1.clickGain)),
       { v1 with
         osc1 := r1.2.1
         osc2 := r2.2.1
         filt := r3.2
         gateOnUptime := if v.gateOn = true then v.gateOnUptime + 32 / rate else v.gateOnUptime
         gateOffUptime := if v.gateOn = true then v.gateOffUptime else v.gateOffUptime + 32 / rate },
       r2.2.2)

/-- 43_envelope.md R193 to R197: the envelope's level, for an envelope that is on: the attack from 0 to 1, the
decay from 1 to the sustain level, the release from its latched start level to 0, each along the ease of its
progress; the ends of the segments: 0 at the start of an attack of positive length, 1 at its end where the
decay has positive length (with an attack of 0, at the note's start), the sustain level from the end of the
decay on, the level kept across the note-off, and 0 once the release has passed; the bypass when it is off;
and R194's latch of the release's start level, fired exactly at a released uptime of 0. The ease is the
model's: log 1. -/
def Obligations.EnvelopeSegmentsMeetTheirEnds : Prop :=
  ∀ (q : EgInput Scalar) (tOn tOff : Scalar) (e : EgState Scalar), 0 ≤ q.decay →
    (q.on = true → tOn < q.attack →
      (egAdvance std q true tOn tOff e).level = std.ease (1 / 2) (tOn / q.attack)) ∧
    (q.on = true → q.attack ≤ tOn → tOn < q.attack + q.decay →
      (egAdvance std q true tOn tOff e).level =
        1 + (q.sustain - 1) * std.ease (1 / 2) ((tOn - q.attack) / q.decay)) ∧
    (q.on = true → tOff < q.release →
      (egAdvance std q false tOn tOff e).level =
        (if tOff = 0 then e.level else e.relStart) * (1 - std.ease (1 / 2) (tOff / q.release))) ∧
    (q.on = true → 0 < q.attack → (egAdvance std q true 0 tOff e).level = 0) ∧
    (q.on = true → 0 < q.decay → (egAdvance std q true q.attack tOff e).level = 1) ∧
    (q.on = true → q.attack + q.decay ≤ tOn → (egAdvance std q true tOn tOff e).level = q.sustain) ∧
    (q.on = true → 0 < q.release → (egAdvance std q false tOn 0 e).level = e.level) ∧
    (q.on = true → q.release ≤ tOff → (egAdvance std q false tOn tOff e).level = 0) ∧
    (q.on = false → (egAdvance std q true tOn tOff e).level = 1 ∧
      (egAdvance std q false tOn tOff e).level = 0) ∧
    (egAdvance std q false tOn 0 e).relStart = e.level ∧
    (tOff ≠ 0 → (egAdvance std q false tOn tOff e).relStart = e.relStart) ∧
    (egAdvance std q true tOn tOff e).relStart = e.relStart

/-- 43_envelope.md R198: the click gain is 1 with the gate off or from 2 ms on, before that the cosine ramp,
and at 48000 Hz with `CHUNK = 32` the ramp is the staircase 0, 0.25, 0.75, 1. The cosine is the model's:
log 1; the chunk length is log 3. -/
def Obligations.ClickGainIsAStaircase : Prop :=
  (∀ tOn : Scalar, clickGainOf std false tOn = 1) ∧
  (∀ tOn : Scalar, 2 / 1000 ≤ tOn → clickGainOf std true tOn = 1) ∧
  (∀ tOn : Scalar, tOn < 2 / 1000 →
    clickGainOf std true tOn = 1 / 2 - 1 / 2 * std.num.cos (std.num.pi * tOn / (2 / 1000))) ∧
  clickGainOf std true 0 = 0 ∧ clickGainOf std true (1 / 1500) = 1 / 4 ∧
  clickGainOf std true (2 / 1500) = 3 / 4 ∧ clickGainOf std true (3 / 1500) = 1

/-- 44_lfo.md R222, R224: the LFO's phase advances modulo 1, and its held value changes, by one draw,
exactly when the sum reaches 1. -/
def Obligations.LfoAdvancesModuloOne : Prop :=
  ∀ (l : LfoState Scalar) (inc : Scalar) (draws : Nat), 0 ≤ l.phase → l.phase < 1 → 0 ≤ inc →
    (lfoStep std l inc draws).1.phase = l.phase + inc - (⌊l.phase + inc⌋ : Scalar) ∧
    0 ≤ (lfoStep std l inc draws).1.phase ∧ (lfoStep std l inc draws).1.phase < 1 ∧
    (l.phase + inc < 1 → (lfoStep std l inc draws).1.sh = l.sh ∧ (lfoStep std l inc draws).2 = draws) ∧
    (1 ≤ l.phase + inc → (lfoStep std l inc draws).1.sh = drawAt draws ∧
      (lfoStep std l inc draws).2 = draws + 1)

/-- 44_lfo.md R223, R225: the formula of every shape; every entry of R223's table of values at sample phases
but the one that is irrational (the sine at 0.125); and the range of every shape. The sine is the model's:
log 1. -/
def Obligations.LfoShapesAreBipolar : Prop :=
  (∀ p sh : Scalar, lfoOutput std .sine ⟨p, sh⟩ = std.num.sin (2 * std.num.pi * p) ∧
    lfoOutput std .triangle ⟨p, sh⟩ = 4 * |p - 1 / 2| - 1 ∧
    lfoOutput std .rectangle ⟨p, sh⟩ = (if p < 1 / 2 then 1 else -1) ∧
    lfoOutput std .descendingSaw ⟨p, sh⟩ = 1 - 2 * p ∧
    lfoOutput std .sampleAndHold ⟨p, sh⟩ = sh) ∧
  (∀ sh : Scalar, lfoOutput std .sine ⟨0, sh⟩ = 0 ∧ lfoOutput std .sine ⟨1 / 4, sh⟩ = 1 ∧
    lfoOutput std .sine ⟨1 / 2, sh⟩ = 0 ∧ lfoOutput std .sine ⟨3 / 4, sh⟩ = -1 ∧
    lfoOutput std .triangle ⟨0, sh⟩ = 1 ∧ lfoOutput std .triangle ⟨1 / 8, sh⟩ = 1 / 2 ∧
    lfoOutput std .triangle ⟨1 / 4, sh⟩ = 0 ∧ lfoOutput std .triangle ⟨1 / 2, sh⟩ = -1 ∧
    lfoOutput std .triangle ⟨3 / 4, sh⟩ = 0 ∧
    lfoOutput std .rectangle ⟨0, sh⟩ = 1 ∧ lfoOutput std .rectangle ⟨1 / 8, sh⟩ = 1 ∧
    lfoOutput std .rectangle ⟨1 / 4, sh⟩ = 1 ∧ lfoOutput std .rectangle ⟨1 / 2, sh⟩ = -1 ∧
    lfoOutput std .rectangle ⟨3 / 4, sh⟩ = -1 ∧
    lfoOutput std .descendingSaw ⟨0, sh⟩ = 1 ∧ lfoOutput std .descendingSaw ⟨1 / 8, sh⟩ = 3 / 4 ∧
    lfoOutput std .descendingSaw ⟨1 / 4, sh⟩ = 1 / 2 ∧ lfoOutput std .descendingSaw ⟨1 / 2, sh⟩ = 0 ∧
    lfoOutput std .descendingSaw ⟨3 / 4, sh⟩ = -1 / 2) ∧
  (∀ (w : LfoWave) (l : LfoState Scalar), 0 ≤ l.phase → l.phase < 1 → -1 ≤ l.sh → l.sh ≤ 1 →
    -1 ≤ lfoOutput std w l ∧ lfoOutput std w l ≤ 1)

/-- 45_modulation_router.md R242, R243: the formulas of the unary route and of the pitch route, whole, with
the destinations' numbers of 10_state.md R26; the pitch route's range and the ranges of its two terms; and
(R245, which the spec derives) with neither source routed to the target, the unary route is its base and
the pitch route 0. -/
def Obligations.RouterRangesAndIdentity : Prop :=
  (List.ofFn std.targetMap = [.osc1Pitch, .osc1PwMix, .osc1Volume, .osc2Pitch, .osc2Detune, .osc2Volume,
    .filterCutoff, .filterPeak]) ∧
  ∀ (p : Params Scalar) (v : Voice Scalar) (base lfoSel modSel : Scalar) (t : Target),
    lfoSel = (if p.lfoOn = true ∧ std.targetMap p.lfoTarget = t then 1 else 0) →
    modSel = (if p.modOn = true ∧ std.targetMap p.modTarget = t then 1 else 0) →
    routeUnary std p v base t =
      max 0 (min 1 (base + v.lfoOut * p.lfoDepth ^ 2 * lfoSel + v.modEg.level * p.modAmount ^ 2 * modSel)) ∧
    routePitch std p v t =
      v.lfoOut * p.lfoDepth ^ 3 * 4 * lfoSel + v.modEg.level * p.modAmount ^ 2 * 12 * modSel ∧
    (p.Inv → v.Inv std →
      (-4 ≤ routePitch std p v t ∧ routePitch std p v t ≤ 16) ∧
      (modSel = 0 → -4 ≤ routePitch std p v t ∧ routePitch std p v t ≤ 4) ∧
      (lfoSel = 0 → 0 ≤ routePitch std p v t ∧ routePitch std p v t ≤ 12)) ∧
    (lfoSel = 0 → modSel = 0 →
      (0 ≤ base → base ≤ 1 → routeUnary std p v base t = base) ∧ routePitch std p v t = 0)

/-- 41_oscillator.md R132: the octave register's five ranges. -/
def Obligations.OctaveRegisterSelectsTheShift : Prop :=
  ∀ x : Scalar, 0 ≤ x → x ≤ 1 →
    octaveShift x =
      if x < 1 / 8 then -2 else if x < 3 / 8 then -1 else if x < 5 / 8 then 0
      else if x < 7 / 8 then 1 else 2

/-- 41_oscillator.md R132: the frequency of every note, octave shift, detune and pitch modulation is
`440 * 2^((note + 12*shift + detune + pitchMod - 69) / 12)`, with the model's power of two (log 1) exactly,
and as real numbers within the 1e-4 relative error of D0's frequency test. -/
def Obligations.NoteFrequencyIsEqualTempered : Prop :=
  ∀ (n : Fin 128) (shift : Int) (detune pitchMod : Scalar) (freq : ℝ),
    freq = 440 * (2 : ℝ) ^ (((n.val : ℝ) + 12 * (shift : ℝ) + (detune : ℝ) + (pitchMod : ℝ) - 69) / 12) →
    oscFrequency std n shift detune pitchMod =
      440 * std.num.pow2 (((n.val : Scalar) + 12 * (shift : Scalar) + detune + pitchMod - 69) / 12) ∧
    |((oscFrequency std n shift detune pitchMod : Scalar) : ℝ) - freq| ≤ 1 / 10000 * freq

/-- 41_oscillator.md R134, R139, R141: a buffer of any length rendered from any phase. Sample `n` is read at
the phase `ph n`, the fraction of the start phase plus `n * dt`, and wraps where `ph n + dt` reaches 1;
`k n` counts the wraps before it. Each sample adds its waveform, scaled by the volume and `OSC_GAIN`; noise
takes one draw a sample, before the draw of a wrap; the phase ends at `ph` of the length, and the held
value is the draw of the last wrap. The draws are free values: log 6. -/
def Obligations.OscillatorSamplesItsPhaseRamp : Prop :=
  ∀ (q : OscInput Scalar) (xs : List Scalar) (o : OscState Scalar) (draws : Nat) (ph : Nat → Scalar)
    (k : Nat → Nat) (r : List Scalar × OscState Scalar × Nat),
    0 ≤ q.dt → 0 ≤ o.phase → o.phase < 1 → r = oscLoop std q xs o draws →
    (∀ n, ph n = Int.fract (o.phase + (n : Scalar) * q.dt)) →
    (∀ n, k n = (List.range n).countP (fun j => decide (1 ≤ ph j + q.dt))) →
    r.2.1.phase = ph xs.length ∧ r.1.length = xs.length ∧
    (q.wave ≠ .noise →
      r.2.2 = draws + k xs.length ∧
      ∀ n, n < xs.length → r.1.getD n 0 =
        xs.getD n 0 + (oscSample std q.wave (ph n) q.dt q.pw draws).1 * q.vol * (1 / 2)) ∧
    (q.wave = .noise →
      r.2.2 = draws + xs.length + k xs.length ∧
      ∀ n, n < xs.length → r.1.getD n 0 = xs.getD n 0 + drawAt (draws + n + k n) * q.vol * (1 / 2)) ∧
    (k xs.length = 0 → r.2.1.sh = o.sh) ∧
    (∀ n, n < xs.length → 1 ≤ ph n + q.dt → k xs.length = k n + 1 →
      r.2.1.sh = drawAt (draws + (if q.wave = .noise then n + 1 else 0) + k n))

/-- 41_oscillator.md R135 to R139, R143 (c): the formulas of the five waveforms, with the draws they take, and
the bounds of the four that take none. The sine is the model's: log 1; the draws are free values: log 6. -/
def Obligations.WaveformsAreBounded : Prop :=
  ∀ (t dt pw bpSaw bpRect : Scalar) (draws : Nat), 0 ≤ t → t < 1 → 0 < dt → 0 ≤ pw → pw ≤ 1 →
    bpSaw = (1 - (1 - pw) ^ 2) * (95 / 100) → bpRect = 1 / 2 - pw * (4 / 10) →
    (oscSample std .saw t dt pw draws =
      ((if t < bpSaw then -1 else -1 + 2 * (t - bpSaw) / (1 - bpSaw)) - std.polyBlep t dt, draws)) ∧
    (oscSample std .rectangle t dt pw draws =
      ((if t < bpRect then 1 else -1) + std.polyBlep t dt - std.polyBlep (Int.fract (t - bpRect)) dt,
        draws)) ∧
    (oscSample std .triangle t dt pw draws =
      (std.sigmoid (4 * |t - 1 / 2| - 1) (pw * (9 / 10)), draws)) ∧
    (oscSample std .sine t dt pw draws =
      (std.sigmoid (std.num.sin (2 * std.num.pi * t)) (pw * (9 / 10)), draws)) ∧
    oscSample std .noise t dt pw draws = (drawAt draws, draws + 1) ∧
    (-2 ≤ (oscSample std .saw t dt pw draws).1 ∧ (oscSample std .saw t dt pw draws).1 ≤ 2) ∧
    (-3 ≤ (oscSample std .rectangle t dt pw draws).1 ∧
      (oscSample std .rectangle t dt pw draws).1 ≤ 3) ∧
    (-1 ≤ (oscSample std .triangle t dt pw draws).1 ∧ (oscSample std .triangle t dt pw draws).1 ≤ 1) ∧
    (-1 ≤ (oscSample std .sine t dt pw draws).1 ∧ (oscSample std .sine t dt pw draws).1 ≤ 1)

/-- 42_filter.md R167, R168: the sample loop, whole. Every sample in order: the clipped previous output, its
highpass, the fed-back input, the Direct Form II recurrence, the output clip and the stored state; in the
executable block with the settling of log 2 on the three stored numbers, over the exact reals (log 1) without
any. And every output sample is bounded by its soft clip, whatever the input, the coefficients and the state;
the executable block's clip rests on log 1. -/
def Obligations.FilterOutputIsBounded : Prop :=
  (∀ (q : FilterInput Scalar) (f f1 : FilterState Scalar) (x fs hpLp xin w y : Scalar) (xs : List Scalar),
    fs = softClip std f.prevOut 2 →
    hpLp = std.num.store (f.hpLp + f.hpG * (fs - f.hpLp)) →
    xin = x - (fs - hpLp) * q.fb →
    w = std.num.store (xin - q.coefs.a1 * f.z1 - q.coefs.a2 * f.z2) →
    y = std.num.store (softClip std (q.coefs.b0 * w + q.coefs.b1 * f.z1 + q.coefs.b2 * f.z2) 1) →
    f1 = { z1 := w, z2 := f.z1, prevOut := y, hpLp := hpLp, hpG := f.hpG } →
    filterLoop std q (x :: xs) f = (y :: (filterLoop std q xs f1).1, (filterLoop std q xs f1).2)) ∧
  (∀ (nVoices chunk : Nat) (osc2Pw : ℝ) (p : Params ℝ) (draw : Nat → ℝ) (seed : Nat → Nat) (c : Config ℝ)
      (q : FilterInput ℝ) (f f1 : FilterState ℝ) (x fs hpLp xin w y : ℝ) (xs : List ℝ),
    c = exactBlock nVoices chunk osc2Pw p draw seed →
    fs = softClip c f.prevOut 2 →
    hpLp = f.hpLp + f.hpG * (fs - f.hpLp) →
    xin = x - (fs - hpLp) * q.fb →
    w = xin - q.coefs.a1 * f.z1 - q.coefs.a2 * f.z2 →
    y = softClip c (q.coefs.b0 * w + q.coefs.b1 * f.z1 + q.coefs.b2 * f.z2) 1 →
    f1 = { z1 := w, z2 := f.z1, prevOut := y, hpLp := hpLp, hpG := f.hpG } →
    filterLoop c q (x :: xs) f = (y :: (filterLoop c q xs f1).1, (filterLoop c q xs f1).2)) ∧
  ∀ (q : FilterInput Scalar) (xs : List Scalar) (f : FilterState Scalar),
    filterLoop std q [] f = ([], f) ∧ (filterLoop std q xs f).1.length = xs.length ∧
    ∀ y ∈ (filterLoop std q xs f).1, -clipBound std 1 ≤ y ∧ y ≤ clipBound std 1

/-- 42_filter.md R161, R167: from the reset filter state, a silent buffer stays silent and the state
stays reset, in the executable block, which settles its stored numbers (log 2), and in every block over the
exact reals, which does not. -/
def Obligations.ResetFilterKeepsSilence : Prop :=
  (∀ (q : FilterInput Scalar) (f : FilterState Scalar) (n : Nat),
    filterLoop std q (List.replicate n 0) (filterReset f) = (List.replicate n 0, filterReset f)) ∧
  ∀ (nVoices chunk : Nat) (osc2Pw : ℝ) (p : Params ℝ) (draw : Nat → ℝ) (seed : Nat → Nat)
      (q : FilterInput ℝ) (f : FilterState ℝ) (n : Nat),
    filterLoop (exactBlock nVoices chunk osc2Pw p draw seed) q (List.replicate n 0) (filterReset f) =
      (List.replicate n 0, filterReset f)

/-- 42_filter.md R165: the coefficients, by their formulas, and unit gain at zero frequency, for every angle
and every positive Q; the sine and the cosine are the model's: log 1. -/
def Obligations.BiquadHasUnitGainAtZero : Prop :=
  ∀ nc q cs sn a0 : Scalar, 0 ≤ nc → nc ≤ 1 / 2 → 0 < q →
    cs = std.num.cos (2 * std.num.pi * nc) → sn = std.num.sin (2 * std.num.pi * nc) →
    a0 = 1 + sn / (2 * q) →
    std.biquadCoefs nc q =
      { b0 := (1 - cs) / 2 / a0, b1 := (1 - cs) / a0, b2 := (1 - cs) / 2 / a0,
        a1 := -2 * cs / a0, a2 := (1 - sn / (2 * q)) / a0 } ∧
    1 ≤ a0 ∧
    (std.biquadCoefs nc q).b0 + (std.biquadCoefs nc q).b1 + (std.biquadCoefs nc q).b2 =
      1 + (std.biquadCoefs nc q).a1 + (std.biquadCoefs nc q).a2

/-- 42_filter.md R163, R164, R170 (D0's stability test; the spec derives that it holds): the cutoff mapping and
the resonance mapping, by their formulas, and, for every cutoff and peak in [0, 1], every note and every
positive sample rate, the poles of the biquad at them inside the unit circle. The power of two, the sine and
the cosine are the model's: log 1. -/
def Obligations.FilterPolesLieInsideTheUnitCircle : Prop :=
  ∀ (note : Fin 128) (cutoffParam peakParam rate pitch nc q : Scalar) (z : ℂ),
    0 ≤ cutoffParam → cutoffParam ≤ 1 → 0 ≤ peakParam → peakParam ≤ 1 → 0 < rate →
    pitch = ((note.val : Scalar) - 6) + (124 - ((note.val : Scalar) - 6)) * (1 - (1 - cutoffParam) ^ 2) →
    nc = max (1 / 10000) (min (440 * std.num.pow2 ((pitch - 69) / 12) / rate) (49 / 100)) →
    q = 1 / 2 + peakParam * (4 / 10) * (39 / 2) →
    normalizedCutoff std note cutoffParam rate = nc ∧ resonanceQ peakParam = q ∧
    (z ^ 2 + (((std.biquadCoefs nc q).a1 : Scalar) : ℂ) * z + (((std.biquadCoefs nc q).a2 : Scalar) : ℂ) = 0 →
      ‖z‖ < 1)

/-! ## Numeric primitives -/

/-- 40_numeric_primitives.md R103: nearest integer, ties toward plus infinity, with the rule's examples. -/
def Obligations.RoundHalfUpIsNearest : Prop :=
  ∀ x : Scalar, roundHalfUp x = ⌊x + 1 / 2⌋ ∧
    x - 1 / 2 < (roundHalfUp x : Scalar) ∧ (roundHalfUp x : Scalar) ≤ x + 1 / 2 ∧
    roundHalfUp (-3 / 2 : Scalar) = -1 ∧ roundHalfUp (-1 / 2 : Scalar) = 0 ∧
    roundHalfUp (1 / 2 : Scalar) = 1 ∧ roundHalfUp (149 / 100 : Scalar) = 1

/-- 40_numeric_primitives.md R106: the correction's formula, its branches in the order written, its range,
and the rule's examples. -/
def Obligations.PolyBlepStaysWithinOne : Prop :=
  (∀ t dt : Scalar, 0 ≤ t → t < 1 → 0 < dt →
    std.polyBlep t dt =
      (if t < dt then 2 * (t / dt) - (t / dt) ^ 2 - 1
        else if 1 - dt < t then ((t - 1) / dt) ^ 2 + 2 * ((t - 1) / dt) + 1 else 0) ∧
    -1 ≤ std.polyBlep t dt ∧ std.polyBlep t dt ≤ 1) ∧
  std.polyBlep (5 / 1000) (1 / 100) = -1 / 4 ∧ std.polyBlep (995 / 1000) (1 / 100) = 1 / 4 ∧
  std.polyBlep (1 / 2) (1 / 100) = 0

/-- 40_numeric_primitives.md R107: the formula and the properties of the shaper on its domain. -/
def Obligations.SigmoidShapesTheUnitInterval : Prop :=
  ∀ x k : Scalar, -1 ≤ x → x ≤ 1 → 0 ≤ k → k ≤ 9 / 10 →
    std.sigmoid x k = (x - k * x) / (k - 2 * k * |x| + 1) ∧
    1 - k ≤ k - 2 * k * |x| + 1 ∧ 1 / 10 ≤ 1 - k ∧
    std.sigmoid (-x) k = -std.sigmoid x k ∧ std.sigmoid 0 k = 0 ∧ std.sigmoid 1 k = 1 ∧ std.sigmoid (-1) k = -1 ∧
    std.sigmoid x 0 = x ∧ (∀ y : Scalar, x < y → y ≤ 1 → std.sigmoid x k < std.sigmoid y k) ∧
    (0 < k → 0 < x → x < 1 → std.sigmoid x k < x) ∧
    std.sigmoid (1 / 2) (45 / 100) = 275 / 1000 ∧ std.sigmoid (-1 / 2) (9 / 10) = -5 / 100

/-- 40_numeric_primitives.md R108: the soft clip is odd, non-decreasing, cubic between the clamp points
and constant beyond them, at the cubic of the clamp point. The clamp point is the model's square root of 2:
log 1. -/
def Obligations.SoftClipIsAnOddMonotoneLimiter : Prop :=
  ∀ x a : Scalar, 0 < a →
    clipLimit std = std.num.sqrt 2 ∧
    clipBound std a = a * (clipLimit std - clipLimit std ^ 3 / 6) ∧
    softClip std (-x) a = -softClip std x a ∧
    (∀ y : Scalar, x ≤ y → softClip std x a ≤ softClip std y a) ∧
    (|x| ≤ a * clipLimit std → softClip std x a = x - x ^ 3 / (6 * a ^ 2)) ∧
    (a * clipLimit std ≤ x → softClip std x a = clipBound std a) ∧
    |softClip std x a| ≤ clipBound std a

/-- 40_numeric_primitives.md R109: the ease's formula, its ends and its range, for the model's power of two
(log 1), and its distance from the real ease, at most 1e-8 (the tolerance is the model's choice, log 1). Over
the exact reals: the ends, the strict increase, and the concavity. -/
def Obligations.EaseRunsFromZeroToOne : Prop :=
  std.ease (1 / 2) 0 = 0 ∧ std.ease (1 / 2) 1 = 1 ∧
  (∀ u : Scalar, 0 ≤ u → u ≤ 1 →
    std.ease (1 / 2) u = 1 - (std.num.pow2 (9 * (1 - u)) - 1) / 511 ∧
    0 ≤ std.ease (1 / 2) u ∧ std.ease (1 / 2) u ≤ 1 ∧
    |((std.ease (1 / 2) u : Scalar) : ℝ) - (1 - ((2 : ℝ) ^ (9 * (1 - (u : ℝ))) - 1) / 511)|
      ≤ 1 / 10 ^ 8) ∧
  ∀ (nVoices chunk : Nat) (osc2Pw : ℝ) (p : Params ℝ) (draw : Nat → ℝ) (seed : Nat → Nat) (c : Config ℝ),
    c = exactBlock nVoices chunk osc2Pw p draw seed →
    (∀ u : ℝ, c.ease c.curveParam u = 1 - ((2 : ℝ) ^ (9 * (1 - u)) - 1) / 511) ∧
    c.ease c.curveParam 0 = 0 ∧ c.ease c.curveParam 1 = 1 ∧
    StrictMonoOn (c.ease c.curveParam) (Set.Icc 0 1) ∧
    ConcaveOn ℝ (Set.Icc 0 1) (c.ease c.curveParam)

/-- 30_encoding.md R82, 40_numeric_primitives.md R112: the value of a binary32 pattern with sign `s`, exponent
field `e` and fraction field `m`: no number for a NaN, the infinities, the subnormal and the normal numbers;
and `toF32` gives back every finite pattern but that of `-0`, whose real is 0. -/
def Obligations.ToF32InvertsTheOperandValue : Prop :=
  (∀ (b : F32) (e m : Nat) (s : Rat), e = (b.extractLsb' 23 8).toNat → m = (b.extractLsb' 0 23).toNat →
    s = (if b.getLsbD 31 then -1 else 1) →
    (e = 255 → m ≠ 0 → f32Value b = none) ∧
    (e = 255 → m = 0 → f32Value b = some (if b.getLsbD 31 then .negInf else .posInf)) ∧
    (e = 0 → f32Value b = some (.finite (s * m * (2 : Rat) ^ (-149 : Int)))) ∧
    (0 < e → e < 255 → f32Value b = some (.finite (s * (2 ^ 23 + m) * (2 : Rat) ^ ((e : Int) - 150))))) ∧
  ∀ (b : F32) (x : Rat), f32Value b = some (.finite x) → b ≠ 0x80000000 → toF32 x = b

/-- 40_numeric_primitives.md R112: no finite binary32 is nearer a number than its `toF32`, where that
is finite, and of two that are equally near, `toF32` gives the even pattern. -/
def Obligations.ToF32IsNearest : Prop :=
  ∀ (x : Scalar) (y z : Rat) (b : F32), f32Value (toF32 x) = some (.finite y) →
    f32Value b = some (.finite z) →
    |y - x| ≤ |z - x| ∧ (z ≠ y → |z - x| = |y - x| → (toF32 x).getLsbD 0 = false)

/-- 40_numeric_primitives.md R111: the model's sine and cosine, at `2 pi t` with the model's pi, are the
real ones at the real `2 pi t` within 1e-9, and its pi is the real pi within 1e-9 (the tolerance is the
model's choice, log 1; D0's own for a sample is 1e-6). -/
def Obligations.SineIsTheRealSine : Prop :=
  |((std.num.pi : Scalar) : ℝ) - Real.pi| ≤ 1 / 10 ^ 9 ∧
  ∀ t : Scalar,
    |((std.num.sin (2 * std.num.pi * t) : Scalar) : ℝ) - Real.sin (2 * Real.pi * (t : ℝ))| ≤ 1 / 10 ^ 9 ∧
    |((std.num.cos (2 * std.num.pi * t) : Scalar) : ℝ) - Real.cos (2 * Real.pi * (t : ℝ))| ≤ 1 / 10 ^ 9

/-- 40_numeric_primitives.md R111: the model's power of two is the real one within 1e-9 relative error
(the tolerance is the model's choice, log 1), exact at integers, and multiplicative where one summand is an
integer. -/
def Obligations.PowerOfTwoIsTheRealPower : Prop :=
  (∀ x : Scalar,
    |((std.num.pow2 x : Scalar) : ℝ) - (2 : ℝ) ^ (x : ℝ)| ≤ 1 / 10 ^ 9 * (2 : ℝ) ^ (x : ℝ)) ∧
  (∀ n : Int, std.num.pow2 (n : Scalar) = (2 : Scalar) ^ n) ∧
  (∀ (x : Scalar) (n : Int), std.num.pow2 (x + n) = std.num.pow2 x * (2 : Scalar) ^ n)

/-- 40_numeric_primitives.md R111: the model's square root of a number that is not negative is the real one
cut to 256 fraction bits (log 1): a multiple of 2^-256, at most the real root, and less than 2^-256 below
it. -/
def Obligations.SquareRootIsBracketed : Prop :=
  ∀ x : Scalar, 0 ≤ x →
    (∃ n : Nat, std.num.sqrt x = (n : Scalar) / 2 ^ 256) ∧
    0 ≤ std.num.sqrt x ∧ std.num.sqrt x ^ 2 ≤ x ∧ x < (std.num.sqrt x + 1 / 2 ^ 256) ^ 2

/-- 40_numeric_primitives.md R110, 93_implementation_defined.md U8: every draw is a number in [-1, 1]. -/
def Obligations.DrawsAreBipolar : Prop :=
  ∀ n : Nat, -1 ≤ drawAt n ∧ drawAt n ≤ 1
end

