-- ==== Sys2Proof/Laws/State.lean ====
section
/-! SUPPORT. What each named update of the state does to each field, by definition. -/

namespace Sys2Proof.Machine

variable {α : Type}

/-! ### `StateOf.raisePrepared` -/

@[simp] theorem StateOf.raisePrepared_params (s : StateOf α) : (s.raisePrepared).params = s.params := rfl
@[simp] theorem StateOf.raisePrepared_voices (s : StateOf α) : (s.raisePrepared).voices = s.voices := rfl
@[simp] theorem StateOf.raisePrepared_prepared (s : StateOf α) : (s.raisePrepared).prepared = true := rfl
@[simp] theorem StateOf.raisePrepared_sampleRate (s : StateOf α) : (s.raisePrepared).sampleRate = s.sampleRate := rfl
@[simp] theorem StateOf.raisePrepared_maxFrames (s : StateOf α) : (s.raisePrepared).maxFrames = s.maxFrames := rfl
@[simp] theorem StateOf.raisePrepared_cursor (s : StateOf α) : (s.raisePrepared).cursor = s.cursor := rfl
@[simp] theorem StateOf.raisePrepared_chunk (s : StateOf α) : (s.raisePrepared).chunk = s.chunk := rfl
@[simp] theorem StateOf.raisePrepared_inbox (s : StateOf α) : (s.raisePrepared).inbox = s.inbox := rfl
@[simp] theorem StateOf.raisePrepared_frames (s : StateOf α) : (s.raisePrepared).frames = s.frames := rfl
@[simp] theorem StateOf.raisePrepared_drawCount (s : StateOf α) : (s.raisePrepared).drawCount = s.drawCount := rfl
@[simp] theorem StateOf.raisePrepared_seedCount (s : StateOf α) : (s.raisePrepared).seedCount = s.seedCount := rfl

/-! ### `StateOf.setParams` -/

@[simp] theorem StateOf.setParams_params (s : StateOf α) (p : Params α) : (s.setParams p).params = p := rfl
@[simp] theorem StateOf.setParams_voices (s : StateOf α) (p : Params α) : (s.setParams p).voices = s.voices := rfl
@[simp] theorem StateOf.setParams_prepared (s : StateOf α) (p : Params α) : (s.setParams p).prepared = s.prepared := rfl
@[simp] theorem StateOf.setParams_sampleRate (s : StateOf α) (p : Params α) : (s.setParams p).sampleRate = s.sampleRate := rfl
@[simp] theorem StateOf.setParams_maxFrames (s : StateOf α) (p : Params α) : (s.setParams p).maxFrames = s.maxFrames := rfl
@[simp] theorem StateOf.setParams_cursor (s : StateOf α) (p : Params α) : (s.setParams p).cursor = s.cursor := rfl
@[simp] theorem StateOf.setParams_chunk (s : StateOf α) (p : Params α) : (s.setParams p).chunk = s.chunk := rfl
@[simp] theorem StateOf.setParams_inbox (s : StateOf α) (p : Params α) : (s.setParams p).inbox = s.inbox := rfl
@[simp] theorem StateOf.setParams_frames (s : StateOf α) (p : Params α) : (s.setParams p).frames = s.frames := rfl
@[simp] theorem StateOf.setParams_drawCount (s : StateOf α) (p : Params α) : (s.setParams p).drawCount = s.drawCount := rfl
@[simp] theorem StateOf.setParams_seedCount (s : StateOf α) (p : Params α) : (s.setParams p).seedCount = s.seedCount := rfl

/-! ### `StateOf.setVoices` -/

@[simp] theorem StateOf.setVoices_params (s : StateOf α) (vs : List (Voice α)) : (s.setVoices vs).params = s.params := rfl
@[simp] theorem StateOf.setVoices_voices (s : StateOf α) (vs : List (Voice α)) : (s.setVoices vs).voices = vs := rfl
@[simp] theorem StateOf.setVoices_prepared (s : StateOf α) (vs : List (Voice α)) : (s.setVoices vs).prepared = s.prepared := rfl
@[simp] theorem StateOf.setVoices_sampleRate (s : StateOf α) (vs : List (Voice α)) : (s.setVoices vs).sampleRate = s.sampleRate := rfl
@[simp] theorem StateOf.setVoices_maxFrames (s : StateOf α) (vs : List (Voice α)) : (s.setVoices vs).maxFrames = s.maxFrames := rfl
@[simp] theorem StateOf.setVoices_cursor (s : StateOf α) (vs : List (Voice α)) : (s.setVoices vs).cursor = s.cursor := rfl
@[simp] theorem StateOf.setVoices_chunk (s : StateOf α) (vs : List (Voice α)) : (s.setVoices vs).chunk = s.chunk := rfl
@[simp] theorem StateOf.setVoices_inbox (s : StateOf α) (vs : List (Voice α)) : (s.setVoices vs).inbox = s.inbox := rfl
@[simp] theorem StateOf.setVoices_frames (s : StateOf α) (vs : List (Voice α)) : (s.setVoices vs).frames = s.frames := rfl
@[simp] theorem StateOf.setVoices_drawCount (s : StateOf α) (vs : List (Voice α)) : (s.setVoices vs).drawCount = s.drawCount := rfl
@[simp] theorem StateOf.setVoices_seedCount (s : StateOf α) (vs : List (Voice α)) : (s.setVoices vs).seedCount = s.seedCount := rfl

/-! ### `StateOf.setRate` -/

@[simp] theorem StateOf.setRate_params (s : StateOf α) (r : α) (m : Half) : (s.setRate r m).params = s.params := rfl
@[simp] theorem StateOf.setRate_voices (s : StateOf α) (r : α) (m : Half) : (s.setRate r m).voices = s.voices := rfl
@[simp] theorem StateOf.setRate_prepared (s : StateOf α) (r : α) (m : Half) : (s.setRate r m).prepared = s.prepared := rfl
@[simp] theorem StateOf.setRate_sampleRate (s : StateOf α) (r : α) (m : Half) : (s.setRate r m).sampleRate = r := rfl
@[simp] theorem StateOf.setRate_maxFrames (s : StateOf α) (r : α) (m : Half) : (s.setRate r m).maxFrames = m := rfl
@[simp] theorem StateOf.setRate_cursor (s : StateOf α) (r : α) (m : Half) : (s.setRate r m).cursor = s.cursor := rfl
@[simp] theorem StateOf.setRate_chunk (s : StateOf α) (r : α) (m : Half) : (s.setRate r m).chunk = s.chunk := rfl
@[simp] theorem StateOf.setRate_inbox (s : StateOf α) (r : α) (m : Half) : (s.setRate r m).inbox = s.inbox := rfl
@[simp] theorem StateOf.setRate_frames (s : StateOf α) (r : α) (m : Half) : (s.setRate r m).frames = s.frames := rfl
@[simp] theorem StateOf.setRate_drawCount (s : StateOf α) (r : α) (m : Half) : (s.setRate r m).drawCount = s.drawCount := rfl
@[simp] theorem StateOf.setRate_seedCount (s : StateOf α) (r : α) (m : Half) : (s.setRate r m).seedCount = s.seedCount := rfl

/-! ### `StateOf.setChunk` -/

@[simp] theorem StateOf.setChunk_params (s : StateOf α) (vs : List (Voice α)) (c : List α) (d : Nat) : (s.setChunk vs c d).params = s.params := rfl
@[simp] theorem StateOf.setChunk_voices (s : StateOf α) (vs : List (Voice α)) (c : List α) (d : Nat) : (s.setChunk vs c d).voices = vs := rfl
@[simp] theorem StateOf.setChunk_prepared (s : StateOf α) (vs : List (Voice α)) (c : List α) (d : Nat) : (s.setChunk vs c d).prepared = s.prepared := rfl
@[simp] theorem StateOf.setChunk_sampleRate (s : StateOf α) (vs : List (Voice α)) (c : List α) (d : Nat) : (s.setChunk vs c d).sampleRate = s.sampleRate := rfl
@[simp] theorem StateOf.setChunk_maxFrames (s : StateOf α) (vs : List (Voice α)) (c : List α) (d : Nat) : (s.setChunk vs c d).maxFrames = s.maxFrames := rfl
@[simp] theorem StateOf.setChunk_cursor (s : StateOf α) (vs : List (Voice α)) (c : List α) (d : Nat) : (s.setChunk vs c d).cursor = s.cursor := rfl
@[simp] theorem StateOf.setChunk_chunk (s : StateOf α) (vs : List (Voice α)) (c : List α) (d : Nat) : (s.setChunk vs c d).chunk = c := rfl
@[simp] theorem StateOf.setChunk_inbox (s : StateOf α) (vs : List (Voice α)) (c : List α) (d : Nat) : (s.setChunk vs c d).inbox = s.inbox := rfl
@[simp] theorem StateOf.setChunk_frames (s : StateOf α) (vs : List (Voice α)) (c : List α) (d : Nat) : (s.setChunk vs c d).frames = s.frames := rfl
@[simp] theorem StateOf.setChunk_drawCount (s : StateOf α) (vs : List (Voice α)) (c : List α) (d : Nat) : (s.setChunk vs c d).drawCount = d := rfl
@[simp] theorem StateOf.setChunk_seedCount (s : StateOf α) (vs : List (Voice α)) (c : List α) (d : Nat) : (s.setChunk vs c d).seedCount = s.seedCount := rfl

/-! ### `StateOf.advanceCursor` -/

@[simp] theorem StateOf.advanceCursor_params (c : Config α) (s : StateOf α) : (s.advanceCursor c).params = s.params := rfl
@[simp] theorem StateOf.advanceCursor_voices (c : Config α) (s : StateOf α) : (s.advanceCursor c).voices = s.voices := rfl
@[simp] theorem StateOf.advanceCursor_prepared (c : Config α) (s : StateOf α) : (s.advanceCursor c).prepared = s.prepared := rfl
@[simp] theorem StateOf.advanceCursor_sampleRate (c : Config α) (s : StateOf α) : (s.advanceCursor c).sampleRate = s.sampleRate := rfl
@[simp] theorem StateOf.advanceCursor_maxFrames (c : Config α) (s : StateOf α) : (s.advanceCursor c).maxFrames = s.maxFrames := rfl
@[simp] theorem StateOf.advanceCursor_cursor (c : Config α) (s : StateOf α) : (s.advanceCursor c).cursor = (s.cursor + 1) % c.chunk := rfl
@[simp] theorem StateOf.advanceCursor_chunk (c : Config α) (s : StateOf α) : (s.advanceCursor c).chunk = s.chunk := rfl
@[simp] theorem StateOf.advanceCursor_inbox (c : Config α) (s : StateOf α) : (s.advanceCursor c).inbox = s.inbox := rfl
@[simp] theorem StateOf.advanceCursor_frames (c : Config α) (s : StateOf α) : (s.advanceCursor c).frames = s.frames := rfl
@[simp] theorem StateOf.advanceCursor_drawCount (c : Config α) (s : StateOf α) : (s.advanceCursor c).drawCount = s.drawCount := rfl
@[simp] theorem StateOf.advanceCursor_seedCount (c : Config α) (s : StateOf α) : (s.advanceCursor c).seedCount = s.seedCount := rfl

/-! ### `StateOf.emit` -/

@[simp] theorem StateOf.emit_params (s : StateOf α) (q : F32) : (s.emit q).params = s.params := rfl
@[simp] theorem StateOf.emit_voices (s : StateOf α) (q : F32) : (s.emit q).voices = s.voices := rfl
@[simp] theorem StateOf.emit_prepared (s : StateOf α) (q : F32) : (s.emit q).prepared = s.prepared := rfl
@[simp] theorem StateOf.emit_sampleRate (s : StateOf α) (q : F32) : (s.emit q).sampleRate = s.sampleRate := rfl
@[simp] theorem StateOf.emit_maxFrames (s : StateOf α) (q : F32) : (s.emit q).maxFrames = s.maxFrames := rfl
@[simp] theorem StateOf.emit_cursor (s : StateOf α) (q : F32) : (s.emit q).cursor = s.cursor := rfl
@[simp] theorem StateOf.emit_chunk (s : StateOf α) (q : F32) : (s.emit q).chunk = s.chunk := rfl
@[simp] theorem StateOf.emit_inbox (s : StateOf α) (q : F32) : (s.emit q).inbox = s.inbox := rfl
@[simp] theorem StateOf.emit_frames (s : StateOf α) (q : F32) : (s.emit q).frames = ⟨q, q⟩ :: s.frames := rfl
@[simp] theorem StateOf.emit_drawCount (s : StateOf α) (q : F32) : (s.emit q).drawCount = s.drawCount := rfl
@[simp] theorem StateOf.emit_seedCount (s : StateOf α) (q : F32) : (s.emit q).seedCount = s.seedCount := rfl

/-! ### `StateOf.emitSilence` -/

@[simp] theorem StateOf.emitSilence_params (s : StateOf α) (n : Nat) : (s.emitSilence n).params = s.params := rfl
@[simp] theorem StateOf.emitSilence_voices (s : StateOf α) (n : Nat) : (s.emitSilence n).voices = s.voices := rfl
@[simp] theorem StateOf.emitSilence_prepared (s : StateOf α) (n : Nat) : (s.emitSilence n).prepared = s.prepared := rfl
@[simp] theorem StateOf.emitSilence_sampleRate (s : StateOf α) (n : Nat) : (s.emitSilence n).sampleRate = s.sampleRate := rfl
@[simp] theorem StateOf.emitSilence_maxFrames (s : StateOf α) (n : Nat) : (s.emitSilence n).maxFrames = s.maxFrames := rfl
@[simp] theorem StateOf.emitSilence_cursor (s : StateOf α) (n : Nat) : (s.emitSilence n).cursor = s.cursor := rfl
@[simp] theorem StateOf.emitSilence_chunk (s : StateOf α) (n : Nat) : (s.emitSilence n).chunk = s.chunk := rfl
@[simp] theorem StateOf.emitSilence_inbox (s : StateOf α) (n : Nat) : (s.emitSilence n).inbox = s.inbox := rfl
@[simp] theorem StateOf.emitSilence_frames (s : StateOf α) (n : Nat) : (s.emitSilence n).frames = List.replicate n ⟨0, 0⟩ ++ s.frames := rfl
@[simp] theorem StateOf.emitSilence_drawCount (s : StateOf α) (n : Nat) : (s.emitSilence n).drawCount = s.drawCount := rfl
@[simp] theorem StateOf.emitSilence_seedCount (s : StateOf α) (n : Nat) : (s.emitSilence n).seedCount = s.seedCount := rfl

/-! ### `StateOf.takeSeed` -/

@[simp] theorem StateOf.takeSeed_params (s : StateOf α) : (s.takeSeed).params = s.params := rfl
@[simp] theorem StateOf.takeSeed_voices (s : StateOf α) : (s.takeSeed).voices = s.voices := rfl
@[simp] theorem StateOf.takeSeed_prepared (s : StateOf α) : (s.takeSeed).prepared = s.prepared := rfl
@[simp] theorem StateOf.takeSeed_sampleRate (s : StateOf α) : (s.takeSeed).sampleRate = s.sampleRate := rfl
@[simp] theorem StateOf.takeSeed_maxFrames (s : StateOf α) : (s.takeSeed).maxFrames = s.maxFrames := rfl
@[simp] theorem StateOf.takeSeed_cursor (s : StateOf α) : (s.takeSeed).cursor = s.cursor := rfl
@[simp] theorem StateOf.takeSeed_chunk (s : StateOf α) : (s.takeSeed).chunk = s.chunk := rfl
@[simp] theorem StateOf.takeSeed_inbox (s : StateOf α) : (s.takeSeed).inbox = s.inbox := rfl
@[simp] theorem StateOf.takeSeed_frames (s : StateOf α) : (s.takeSeed).frames = s.frames := rfl
@[simp] theorem StateOf.takeSeed_drawCount (s : StateOf α) : (s.takeSeed).drawCount = s.drawCount := rfl
@[simp] theorem StateOf.takeSeed_seedCount (s : StateOf α) : (s.takeSeed).seedCount = s.seedCount + 1 := rfl

/-! ### `StateOf.setInbox` -/

@[simp] theorem StateOf.setInbox_params (s : StateOf α) (ws : List Word) : (s.setInbox ws).params = s.params := rfl
@[simp] theorem StateOf.setInbox_voices (s : StateOf α) (ws : List Word) : (s.setInbox ws).voices = s.voices := rfl
@[simp] theorem StateOf.setInbox_prepared (s : StateOf α) (ws : List Word) : (s.setInbox ws).prepared = s.prepared := rfl
@[simp] theorem StateOf.setInbox_sampleRate (s : StateOf α) (ws : List Word) : (s.setInbox ws).sampleRate = s.sampleRate := rfl
@[simp] theorem StateOf.setInbox_maxFrames (s : StateOf α) (ws : List Word) : (s.setInbox ws).maxFrames = s.maxFrames := rfl
@[simp] theorem StateOf.setInbox_cursor (s : StateOf α) (ws : List Word) : (s.setInbox ws).cursor = s.cursor := rfl
@[simp] theorem StateOf.setInbox_chunk (s : StateOf α) (ws : List Word) : (s.setInbox ws).chunk = s.chunk := rfl
@[simp] theorem StateOf.setInbox_inbox (s : StateOf α) (ws : List Word) : (s.setInbox ws).inbox = ws := rfl
@[simp] theorem StateOf.setInbox_frames (s : StateOf α) (ws : List Word) : (s.setInbox ws).frames = s.frames := rfl
@[simp] theorem StateOf.setInbox_drawCount (s : StateOf α) (ws : List Word) : (s.setInbox ws).drawCount = s.drawCount := rfl
@[simp] theorem StateOf.setInbox_seedCount (s : StateOf α) (ws : List Word) : (s.setInbox ws).seedCount = s.seedCount := rfl

/-! ### `raiseGate` -/

@[simp] theorem Voice.raiseGate_note (v : Voice α) : (v.raiseGate).note = v.note := rfl
@[simp] theorem Voice.raiseGate_gateOn (v : Voice α) : (v.raiseGate).gateOn = true := rfl
@[simp] theorem Voice.raiseGate_gateOnUptime (v : Voice α) : (v.raiseGate).gateOnUptime = v.gateOnUptime := rfl
@[simp] theorem Voice.raiseGate_gateOffUptime (v : Voice α) : (v.raiseGate).gateOffUptime = v.gateOffUptime := rfl
@[simp] theorem Voice.raiseGate_seed (v : Voice α) : (v.raiseGate).seed = v.seed := rfl
@[simp] theorem Voice.raiseGate_clickGain (v : Voice α) : (v.raiseGate).clickGain = v.clickGain := rfl
@[simp] theorem Voice.raiseGate_lfoOut (v : Voice α) : (v.raiseGate).lfoOut = v.lfoOut := rfl
@[simp] theorem Voice.raiseGate_osc1 (v : Voice α) : (v.raiseGate).osc1 = v.osc1 := rfl
@[simp] theorem Voice.raiseGate_osc2 (v : Voice α) : (v.raiseGate).osc2 = v.osc2 := rfl
@[simp] theorem Voice.raiseGate_filt (v : Voice α) : (v.raiseGate).filt = v.filt := rfl
@[simp] theorem Voice.raiseGate_ampEg (v : Voice α) : (v.raiseGate).ampEg = v.ampEg := rfl
@[simp] theorem Voice.raiseGate_modEg (v : Voice α) : (v.raiseGate).modEg = v.modEg := rfl
@[simp] theorem Voice.raiseGate_lfo (v : Voice α) : (v.raiseGate).lfo = v.lfo := rfl

/-! ### `dropGate` -/

@[simp] theorem Voice.dropGate_note (v : Voice α) : (v.dropGate).note = v.note := rfl
@[simp] theorem Voice.dropGate_gateOn (v : Voice α) : (v.dropGate).gateOn = false := rfl
@[simp] theorem Voice.dropGate_gateOnUptime (v : Voice α) : (v.dropGate).gateOnUptime = v.gateOnUptime := rfl
@[simp] theorem Voice.dropGate_gateOffUptime (v : Voice α) : (v.dropGate).gateOffUptime = v.gateOffUptime := rfl
@[simp] theorem Voice.dropGate_seed (v : Voice α) : (v.dropGate).seed = v.seed := rfl
@[simp] theorem Voice.dropGate_clickGain (v : Voice α) : (v.dropGate).clickGain = v.clickGain := rfl
@[simp] theorem Voice.dropGate_lfoOut (v : Voice α) : (v.dropGate).lfoOut = v.lfoOut := rfl
@[simp] theorem Voice.dropGate_osc1 (v : Voice α) : (v.dropGate).osc1 = v.osc1 := rfl
@[simp] theorem Voice.dropGate_osc2 (v : Voice α) : (v.dropGate).osc2 = v.osc2 := rfl
@[simp] theorem Voice.dropGate_filt (v : Voice α) : (v.dropGate).filt = v.filt := rfl
@[simp] theorem Voice.dropGate_ampEg (v : Voice α) : (v.dropGate).ampEg = v.ampEg := rfl
@[simp] theorem Voice.dropGate_modEg (v : Voice α) : (v.dropGate).modEg = v.modEg := rfl
@[simp] theorem Voice.dropGate_lfo (v : Voice α) : (v.dropGate).lfo = v.lfo := rfl

variable [Field α]

/-! ### `voiceNoteOn` -/

@[simp] theorem voiceNoteOn_note (n : Fin 128) (seed : Nat) (v : Voice α) : (voiceNoteOn n seed v).note = n := rfl
@[simp] theorem voiceNoteOn_gateOn (n : Fin 128) (seed : Nat) (v : Voice α) : (voiceNoteOn n seed v).gateOn = true := rfl
@[simp] theorem voiceNoteOn_gateOnUptime (n : Fin 128) (seed : Nat) (v : Voice α) : (voiceNoteOn n seed v).gateOnUptime = 0 := rfl
@[simp] theorem voiceNoteOn_gateOffUptime (n : Fin 128) (seed : Nat) (v : Voice α) : (voiceNoteOn n seed v).gateOffUptime = 0 := rfl
@[simp] theorem voiceNoteOn_seed (n : Fin 128) (seed : Nat) (v : Voice α) : (voiceNoteOn n seed v).seed = seed := rfl
@[simp] theorem voiceNoteOn_clickGain (n : Fin 128) (seed : Nat) (v : Voice α) : (voiceNoteOn n seed v).clickGain = v.clickGain := rfl
@[simp] theorem voiceNoteOn_lfoOut (n : Fin 128) (seed : Nat) (v : Voice α) : (voiceNoteOn n seed v).lfoOut = v.lfoOut := rfl
@[simp] theorem voiceNoteOn_osc1 (n : Fin 128) (seed : Nat) (v : Voice α) : (voiceNoteOn n seed v).osc1 = oscReset v.osc1 := rfl
@[simp] theorem voiceNoteOn_osc2 (n : Fin 128) (seed : Nat) (v : Voice α) : (voiceNoteOn n seed v).osc2 = oscReset v.osc2 := rfl
@[simp] theorem voiceNoteOn_filt (n : Fin 128) (seed : Nat) (v : Voice α) : (voiceNoteOn n seed v).filt = filterReset v.filt := rfl
@[simp] theorem voiceNoteOn_ampEg (n : Fin 128) (seed : Nat) (v : Voice α) : (voiceNoteOn n seed v).ampEg = v.ampEg := rfl
@[simp] theorem voiceNoteOn_modEg (n : Fin 128) (seed : Nat) (v : Voice α) : (voiceNoteOn n seed v).modEg = v.modEg := rfl
@[simp] theorem voiceNoteOn_lfo (n : Fin 128) (seed : Nat) (v : Voice α) : (voiceNoteOn n seed v).lfo = ⟨0, v.lfo.sh⟩ := rfl

/-! ### `voiceNoteOff` -/

@[simp] theorem voiceNoteOff_note (v : Voice α) : (voiceNoteOff v).note = v.note := rfl
@[simp] theorem voiceNoteOff_gateOn (v : Voice α) : (voiceNoteOff v).gateOn = false := rfl
@[simp] theorem voiceNoteOff_gateOnUptime (v : Voice α) : (voiceNoteOff v).gateOnUptime = v.gateOnUptime := rfl
@[simp] theorem voiceNoteOff_gateOffUptime (v : Voice α) : (voiceNoteOff v).gateOffUptime = 0 := rfl
@[simp] theorem voiceNoteOff_seed (v : Voice α) : (voiceNoteOff v).seed = v.seed := rfl
@[simp] theorem voiceNoteOff_clickGain (v : Voice α) : (voiceNoteOff v).clickGain = v.clickGain := rfl
@[simp] theorem voiceNoteOff_lfoOut (v : Voice α) : (voiceNoteOff v).lfoOut = v.lfoOut := rfl
@[simp] theorem voiceNoteOff_osc1 (v : Voice α) : (voiceNoteOff v).osc1 = v.osc1 := rfl
@[simp] theorem voiceNoteOff_osc2 (v : Voice α) : (voiceNoteOff v).osc2 = v.osc2 := rfl
@[simp] theorem voiceNoteOff_filt (v : Voice α) : (voiceNoteOff v).filt = v.filt := rfl
@[simp] theorem voiceNoteOff_ampEg (v : Voice α) : (voiceNoteOff v).ampEg = v.ampEg := rfl
@[simp] theorem voiceNoteOff_modEg (v : Voice α) : (voiceNoteOff v).modEg = v.modEg := rfl
@[simp] theorem voiceNoteOff_lfo (v : Voice α) : (voiceNoteOff v).lfo = v.lfo := rfl

end Sys2Proof.Machine
end

