-- ==== Sys2Proof/Laws/Numeric.lean ====
section
/-! SUPPORT. What the numeric primitives do over any number type, once each: ranges, ends and signs. -/

namespace Sys2Proof.Machine

set_option linter.unusedSectionVars false

variable {α : Type} [Field α] [LinearOrder α] [IsStrictOrderedRing α]

/-! ### Elementary helpers -/

theorem clamp_eq_max_min (x lo hi : α) (h : lo ≤ hi) : clamp x lo hi = max lo (min x hi) := by
  unfold clamp
  split_ifs with h1 h2
  · rw [max_eq_left]; exact (min_le_left _ _).trans h1.le
  · rw [min_eq_right h2.le, max_eq_right h]
  · rw [min_eq_left (not_lt.mp h2), max_eq_right (not_lt.mp h1)]

theorem le_clamp (x lo hi : α) (h : lo ≤ hi) : lo ≤ clamp x lo hi := by
  rw [clamp_eq_max_min x lo hi h]; exact le_max_left _ _

theorem clamp_le (x lo hi : α) (h : lo ≤ hi) : clamp x lo hi ≤ hi := by
  rw [clamp_eq_max_min x lo hi h]; exact max_le h (min_le_right _ _)

theorem clamp_of_mem {x lo hi : α} (h1 : lo ≤ x) (h2 : x ≤ hi) : clamp x lo hi = x := by
  simp [clamp, not_lt.mpr h1, not_lt.mpr h2]

theorem clamp_of_le {x lo hi : α} (h : lo ≤ hi) (hx : x ≤ lo) : clamp x lo hi = lo := by
  rw [clamp_eq_max_min x lo hi h, min_eq_left (hx.trans h), max_eq_left hx]

theorem clamp_of_ge {x lo hi : α} (h : lo ≤ hi) (hx : hi ≤ x) : clamp x lo hi = hi := by
  rw [clamp_eq_max_min x lo hi h, min_eq_right hx, max_eq_right h]

theorem clamp_mono {x y lo hi : α} (h : lo ≤ hi) (hxy : x ≤ y) : clamp x lo hi ≤ clamp y lo hi := by
  rw [clamp_eq_max_min x lo hi h, clamp_eq_max_min y lo hi h]
  exact max_le_max le_rfl (min_le_min hxy le_rfl)

theorem clamp_neg (x a : α) (h : 0 ≤ a) : clamp (-x) (-a) a = -clamp x (-a) a := by
  unfold clamp
  split_ifs <;> linarith

theorem clamp01_nonneg (x : α) : 0 ≤ clamp01 x := le_clamp x 0 1 (by norm_num)

theorem clamp01_le_one (x : α) : clamp01 x ≤ 1 := clamp_le x 0 1 (by norm_num)

section
variable [FloorRing α]

theorem frac_eq (x : α) : frac x = Int.fract x := rfl

theorem frac_nonneg (x : α) : 0 ≤ frac x := Int.fract_nonneg x

theorem frac_lt_one (x : α) : frac x < 1 := Int.fract_lt_one x

theorem roundHalfUp_eq (x : α) : roundHalfUp x = ⌊x + 1 / 2⌋ := rfl

end

theorem magnitude_eq_abs (x : α) : magnitude x = |x| := by
  unfold magnitude
  split_ifs with h
  · exact (abs_of_neg h).symm
  · exact (abs_of_nonneg (not_lt.mp h)).symm

/-- An interpolation with its parameter in [0, 1] lies between its ends. -/
theorem lerp_mem {t a b lo hi : α} (ht0 : 0 ≤ t) (ht1 : t ≤ 1) (ha : lo ≤ a) (ha' : a ≤ hi)
    (hb : lo ≤ b) (hb' : b ≤ hi) : lo ≤ lerp t a b ∧ lerp t a b ≤ hi := by
  unfold lerp
  constructor <;> nlinarith

/-! ### Integer powers of two -/

theorem exp2Int_eq_zpow (n : Int) : (exp2Int n : α) = (2 : α) ^ n := by
  cases n with
  | ofNat k => simp [exp2Int]
  | negSucc k => simp [exp2Int, zpow_negSucc]

theorem exp2Int_pos (n : Int) : (0 : α) < exp2Int n := by
  rw [exp2Int_eq_zpow]; positivity

theorem exp2Int_mono {m n : Int} (h : m ≤ n) : (exp2Int m : α) ≤ exp2Int n := by
  rw [exp2Int_eq_zpow, exp2Int_eq_zpow]; exact zpow_le_zpow_right₀ (by norm_num) h

/-! ### The arithmetic -/

section Arithmetic
variable {N : Numerics α}

theorem store_zero (h : N.Assumed) : N.store 0 = 0 :=
  le_antisymm (h.store_mem 0 le_rfl).2 (h.store_mem 0 le_rfl).1

/-- Storing keeps a number within any symmetric bound. -/
theorem store_mem (h : N.Assumed) {x b : α} (h1 : -b ≤ x) (h2 : x ≤ b) :
    -b ≤ N.store x ∧ N.store x ≤ b := by
  rcases le_total 0 x with hx | hx
  · have := h.store_mem x hx
    constructor <;> linarith [this.1, this.2]
  · have := h.store_mem (-x) (by linarith)
    rw [h.store_neg] at this
    constructor <;> linarith [this.1, this.2]

end Arithmetic

/-! ### The soft clip -/

section Clip
variable {c : Config α} (hc : c.Lawful)
include hc

theorem clipLimit_pos : 0 < clipLimit c := hc.num.sqrt_pos 2 (by norm_num)

theorem clipLimit_neg_le : -clipLimit c ≤ clipLimit c := by linarith [clipLimit_pos hc]

theorem cubic_zero : c.cubic 0 = 0 := by
  have h := hc.cubic_neg 0
  rw [neg_zero] at h
  linarith

theorem cubic_clamp_mem (x : α) :
    -c.cubic (clipLimit c) ≤ c.cubic (clamp x (-clipLimit c) (clipLimit c)) ∧
      c.cubic (clamp x (-clipLimit c) (clipLimit c)) ≤ c.cubic (clipLimit c) := by
  have h1 := le_clamp x (-clipLimit c) (clipLimit c) (clipLimit_neg_le hc)
  have h2 := clamp_le x (-clipLimit c) (clipLimit c) (clipLimit_neg_le hc)
  rw [← hc.cubic_neg]
  exact ⟨hc.cubic_mono _ _ le_rfl h1 h2, hc.cubic_mono _ _ h1 h2 le_rfl⟩

theorem clipBound_nonneg {a : α} (h : 0 ≤ a) : 0 ≤ clipBound c a := by
  have h1 := hc.cubic_mono 0 (clipLimit c) (by linarith [clipLimit_pos hc]) (clipLimit_pos hc).le le_rfl
  rw [cubic_zero hc] at h1
  exact mul_nonneg h h1

theorem softClip_mem (x : α) {a : α} (ha : 0 ≤ a) :
    -clipBound c a ≤ softClip c x a ∧ softClip c x a ≤ clipBound c a := by
  have h := cubic_clamp_mem hc (x / a)
  unfold softClip clipBound
  constructor <;> nlinarith [h.1, h.2]

theorem softClip_zero (a : α) : softClip c 0 a = 0 := by
  have h : clamp (0 / a) (-clipLimit c) (clipLimit c) = 0 := by
    rw [zero_div]; exact clamp_of_mem (by linarith [clipLimit_pos hc]) (clipLimit_pos hc).le
  rw [softClip, h, cubic_zero hc, mul_zero]

end Clip

end Sys2Proof.Machine
end

