-- ==== Sys2Proof/Laws/Params.lean ====
section
/-! SUPPORT. The operand conversions and the parameter space: what a write leaves in each register. -/

namespace Sys2Proof.Machine

/-! ### Operands -/

theorem noteOperand_eq_some {a : Half} {n : Fin 128} (h : a.toNat = n.val) : noteOperand a = some n := by
  have h2 : a.toNat < 128 := h ▸ n.isLt
  simp only [noteOperand, h2, dif_pos, Option.some.injEq]
  exact Fin.ext h

theorem noteOperand_val {a : Half} {n : Fin 128} (h : noteOperand a = some n) : n.val = a.toNat := by
  unfold noteOperand at h
  split at h
  · exact (Option.some.inj h) ▸ rfl
  · cases h

theorem toUnary_isUnary (x : ExtNum) : IsUnary x.toUnary := by
  cases x with
  | negInf => exact ⟨le_rfl, zero_le_one⟩
  | finite x => exact ⟨clamp01_nonneg x, clamp01_le_one x⟩
  | posInf => exact ⟨zero_le_one, le_rfl⟩

theorem toIndex_le (x : ExtNum) (top : Nat) : x.toIndex top ≤ top := by
  cases x with
  | negInf => exact Nat.zero_le _
  | finite x => exact Nat.min_le_right _ _
  | posInf => exact Nat.le_refl _

theorem OscWave.index_ofIndex {n : Nat} (h : n ≤ 4) : (OscWave.ofIndex n).index = n := by
  interval_cases n <;> rfl

theorem LfoWave.index_ofIndex {n : Nat} (h : n ≤ 4) : (LfoWave.ofIndex n).index = n := by
  interval_cases n <;> rfl

theorem targetNumber_val {n : Nat} (h : n ≤ 7) : (targetNumber n).val = n := Nat.min_eq_left h

theorem FilterType.index_ofIndex {n : Nat} (h : n ≤ 2) : (FilterType.ofIndex n).index = n := by
  interval_cases n <;> rfl

theorem Voicing.index_ofIndex {n : Nat} (h : n ≤ 1) : (Voicing.ofIndex n).index = n := by
  interval_cases n <;> rfl

theorem OscWave.index_le (w : OscWave) : w.index ≤ 4 := by cases w <;> decide
theorem LfoWave.index_le (w : LfoWave) : w.index ≤ 4 := by cases w <;> decide
theorem FilterType.index_le (t : FilterType) : t.index ≤ 2 := by cases t <;> decide
theorem Voicing.index_le (v : Voicing) : v.index ≤ 1 := by cases v <;> decide

section
variable {α : Type} [Field α] [LinearOrder α] [IsStrictOrderedRing α]

/-- A unary operand is one in every number type. -/
theorem toUnary_cast_isUnary (x : ExtNum) : IsUnary (x.toUnary : α) :=
  ⟨by exact_mod_cast (toUnary_isUnary x).1, by exact_mod_cast (toUnary_isUnary x).2⟩

end

/-! ### The parameter space -/

section
variable {α : Type} [Field α]

/-- Outside the mapped keys a write changes nothing. -/
theorem Params.write_unmapped (p : Params α) {k : Nat} (h : 32 < k) (x : ExtNum) : p.write k x = p := by
  unfold Params.write
  split <;> first | omega | rfl

/-- A written register reads back as the converted value. -/
theorem Params.read_write_self (p : Params α) {k : Nat} {ty : ParamType} (h : paramType k = some ty)
    (x : ExtNum) : (p.write k x).read k = some (x.convert ty) := by
  have hw := OscWave.index_ofIndex (toIndex_le x 4)
  have hl := LfoWave.index_ofIndex (toIndex_le x 4)
  have ht := targetNumber_val (toIndex_le x 7)
  have hf := FilterType.index_ofIndex (toIndex_le x 2)
  have hv := Voicing.index_ofIndex (toIndex_le x 1)
  unfold paramType at h
  split at h <;> cases h <;> unfold Params.write Params.read ExtNum.convert <;>
    simp only [hw, hl, ht, hf, hv]

/-- A write leaves every other register alone. -/
theorem Params.read_write_other (p : Params α) {j k : Nat} (h : j ≠ k) (x : ExtNum) :
    (p.write k x).read j = p.read j := by
  by_cases hk : k ≤ 32
  · by_cases hj : j ≤ 32
    · interval_cases k <;> (unfold Params.read; split <;> first | rfl | exact absurd rfl h)
    · have : ∀ q : Params α, q.read j = none := by
        intro q
        unfold Params.read
        split <;> first | omega | rfl
      rw [this, this]
  · rw [Params.write_unmapped p (by omega)]

end

/-- A write keeps every unary register in [0, 1]. -/
theorem Params.Inv.write {α : Type} [Field α] [LinearOrder α] [IsStrictOrderedRing α]
    {p : Params α} (h : p.Inv) (k : Nat) (x : ExtNum) : (p.write k x).Inv := by
  have hu : IsUnary (x.toUnary : α) := toUnary_cast_isUnary x
  obtain ⟨h1, h2, h3, h4, h5, h6, h7, h8, h9, h10, h11, h12, h13, h14, h15, h16, h17, h18, h19, h20⟩ := h
  unfold Params.write
  split
  · exact ⟨h1, h2, h3, h4, h5, h6, h7, h8, h9, h10, h11, h12, h13, h14, h15, h16, h17, h18,
      h19, h20⟩
  · exact ⟨h1, h2, h3, h4, h5, h6, h7, h8, h9, h10, h11, h12, h13, h14, h15, h16, h17, h18,
      h19, h20⟩
  · exact ⟨hu, h2, h3, h4, h5, h6, h7, h8, h9, h10, h11, h12, h13, h14, h15, h16, h17, h18,
      h19, h20⟩
  · exact ⟨h1, hu, h3, h4, h5, h6, h7, h8, h9, h10, h11, h12, h13, h14, h15, h16, h17, h18,
      h19, h20⟩
  · exact ⟨h1, h2, hu, h4, h5, h6, h7, h8, h9, h10, h11, h12, h13, h14, h15, h16, h17, h18,
      h19, h20⟩
  · exact ⟨h1, h2, h3, h4, h5, h6, h7, h8, h9, h10, h11, h12, h13, h14, h15, h16, h17, h18,
      h19, h20⟩
  · exact ⟨h1, h2, h3, h4, h5, h6, h7, h8, h9, h10, h11, h12, h13, h14, h15, h16, h17, h18,
      h19, h20⟩
  · exact ⟨h1, h2, h3, hu, h5, h6, h7, h8, h9, h10, h11, h12, h13, h14, h15, h16, h17, h18,
      h19, h20⟩
  · exact ⟨h1, h2, h3, h4, hu, h6, h7, h8, h9, h10, h11, h12, h13, h14, h15, h16, h17, h18,
      h19, h20⟩
  · exact ⟨h1, h2, h3, h4, h5, hu, h7, h8, h9, h10, h11, h12, h13, h14, h15, h16, h17, h18,
      h19, h20⟩
  · exact ⟨h1, h2, h3, h4, h5, h6, h7, h8, h9, h10, h11, h12, h13, h14, h15, h16, h17, h18,
      h19, h20⟩
  · exact ⟨h1, h2, h3, h4, h5, h6, h7, h8, h9, h10, h11, h12, h13, h14, h15, h16, h17, h18,
      h19, h20⟩
  · exact ⟨h1, h2, h3, h4, h5, h6, hu, h8, h9, h10, h11, h12, h13, h14, h15, h16, h17, h18,
      h19, h20⟩
  · exact ⟨h1, h2, h3, h4, h5, h6, h7, hu, h9, h10, h11, h12, h13, h14, h15, h16, h17, h18,
      h19, h20⟩
  · exact ⟨h1, h2, h3, h4, h5, h6, h7, h8, hu, h10, h11, h12, h13, h14, h15, h16, h17, h18,
      h19, h20⟩
  · exact ⟨h1, h2, h3, h4, h5, h6, h7, h8, h9, h10, h11, h12, h13, h14, h15, h16, h17, h18,
      h19, h20⟩
  · exact ⟨h1, h2, h3, h4, h5, h6, h7, h8, h9, hu, h11, h12, h13, h14, h15, h16, h17, h18, h19, h20⟩
  · exact ⟨h1, h2, h3, h4, h5, h6, h7, h8, h9, h10, hu, h12, h13, h14, h15, h16, h17, h18, h19, h20⟩
  · exact ⟨h1, h2, h3, h4, h5, h6, h7, h8, h9, h10, h11, hu, h13, h14, h15, h16, h17, h18, h19, h20⟩
  · exact ⟨h1, h2, h3, h4, h5, h6, h7, h8, h9, h10, h11, h12, hu, h14, h15, h16, h17, h18, h19, h20⟩
  · exact ⟨h1, h2, h3, h4, h5, h6, h7, h8, h9, h10, h11, h12, h13, h14, h15, h16, h17, h18,
      h19, h20⟩
  · exact ⟨h1, h2, h3, h4, h5, h6, h7, h8, h9, h10, h11, h12, h13, h14, h15, h16, h17, h18,
      h19, h20⟩
  · exact ⟨h1, h2, h3, h4, h5, h6, h7, h8, h9, h10, h11, h12, h13, hu, h15, h16, h17, h18, h19, h20⟩
  · exact ⟨h1, h2, h3, h4, h5, h6, h7, h8, h9, h10, h11, h12, h13, h14, hu, h16, h17, h18, h19, h20⟩
  · exact ⟨h1, h2, h3, h4, h5, h6, h7, h8, h9, h10, h11, h12, h13, h14, h15, h16, h17, h18,
      h19, h20⟩
  · exact ⟨h1, h2, h3, h4, h5, h6, h7, h8, h9, h10, h11, h12, h13, h14, h15, h16, h17, h18,
      h19, h20⟩
  · exact ⟨h1, h2, h3, h4, h5, h6, h7, h8, h9, h10, h11, h12, h13, h14, h15, hu, h17, h18, h19, h20⟩
  · exact ⟨h1, h2, h3, h4, h5, h6, h7, h8, h9, h10, h11, h12, h13, h14, h15, h16, hu, h18, h19, h20⟩
  · exact ⟨h1, h2, h3, h4, h5, h6, h7, h8, h9, h10, h11, h12, h13, h14, h15, h16, h17, hu, h19, h20⟩
  · exact ⟨h1, h2, h3, h4, h5, h6, h7, h8, h9, h10, h11, h12, h13, h14, h15, h16, h17, h18,
      h19, h20⟩
  · exact ⟨h1, h2, h3, h4, h5, h6, h7, h8, h9, h10, h11, h12, h13, h14, h15, h16, h17, h18, hu, h20⟩
  · exact ⟨h1, h2, h3, h4, h5, h6, h7, h8, h9, h10, h11, h12, h13, h14, h15, h16, h17, h18,
      h19, h20⟩
  · exact ⟨h1, h2, h3, h4, h5, h6, h7, h8, h9, h10, h11, h12, h13, h14, h15, h16, h17, h18, h19, hu⟩
  · exact ⟨h1, h2, h3, h4, h5, h6, h7, h8, h9, h10, h11, h12, h13, h14, h15, h16, h17, h18,
      h19, h20⟩

end Sys2Proof.Machine
end

