-- ==== Sys2Proof/Laws/Rational.lean ====
section
/-! SUPPORT. The rational arithmetic of the executable block meets the properties assumed of `NUM`. -/

namespace Sys2Proof.Machine

/-! ### The power of two and the exponential -/

theorem one_le_exp2Frac (r : Scalar) : 1 ≤ exp2Frac r := le_clamp _ 1 2 (by norm_num)

theorem exp2Frac_le_two (r : Scalar) : exp2Frac r ≤ 2 := clamp_le _ 1 2 (by norm_num)

theorem exp2Frac_zero : exp2Frac 0 = 1 := by decide +kernel

theorem ratPow2_intCast (n : Int) : ratPow2 (n : Scalar) = exp2Int n := by
  rw [ratPow2, frac_eq, Int.fract_intCast, Int.floor_intCast, exp2Frac_zero, mul_one]

theorem ratPow2_add_int (x : Scalar) (n : Int) : ratPow2 (x + n) = ratPow2 x * (2 : Scalar) ^ n := by
  rw [ratPow2, ratPow2, frac_eq, frac_eq, Int.fract_add_intCast, Int.floor_add_intCast,
    exp2Int_eq_zpow, exp2Int_eq_zpow, zpow_add₀ (by norm_num)]
  ring

theorem ratPow2_pos (x : Scalar) : 0 < ratPow2 x :=
  mul_pos (exp2Int_pos _) (lt_of_lt_of_le one_pos (one_le_exp2Frac _))

/-- A power of two is at least that of any integer up to its exponent. -/
theorem le_ratPow2 {x : Scalar} {n : Int} (h : (n : Scalar) ≤ x) : exp2Int n ≤ ratPow2 x :=
  (exp2Int_mono (Int.le_floor.mpr h)).trans (le_mul_of_one_le_right (exp2Int_pos _).le (one_le_exp2Frac _))

/-- A power of two is at most that of any integer from its exponent on. -/
theorem ratPow2_le {x : Scalar} {n : Int} (h : x ≤ n) : ratPow2 x ≤ exp2Int n := by
  rcases h.eq_or_lt with h | h
  · rw [h, ratPow2_intCast]
  · have h1 : exp2Int (⌊x⌋ + 1) = exp2Int ⌊x⌋ * (2 : Scalar) := by
      rw [exp2Int_eq_zpow, exp2Int_eq_zpow, zpow_add_one₀ (by norm_num)]
    have h2 : ratPow2 x ≤ exp2Int (⌊x⌋ + 1) :=
      h1 ▸ mul_le_mul_of_nonneg_left (exp2Frac_le_two _) (exp2Int_pos _).le
    exact h2.trans (exp2Int_mono (Int.floor_lt.mpr h))

theorem ratExp_le_one {x : Scalar} (h : x ≤ 0) : ratExp x ≤ 1 := by
  have hl : (0 : Scalar) < ofScaled ln2Scaled := by decide +kernel
  have h1 : x / ofScaled ln2Scaled ≤ 0 := div_nonpos_of_nonpos_of_nonneg h hl.le
  have h2 := ratPow2_le (x := if x / ofScaled ln2Scaled < -1024 then -1024 else x / ofScaled ln2Scaled)
    (n := 0) (by split_ifs <;> norm_num; exact h1)
  rwa [exp2Int_eq_zpow, zpow_zero] at h2

/-! ### Sine and cosine -/

theorem sinQuarter_mem (v : Scalar) : 0 ≤ sinQuarter v ∧ sinQuarter v ≤ 1 :=
  ⟨clamp01_nonneg _, clamp01_le_one _⟩

theorem sinHalf_mem (u : Scalar) : 0 ≤ sinHalf u ∧ sinHalf u ≤ 1 := by
  unfold sinHalf; split_ifs <;> exact sinQuarter_mem _

theorem sinTurns_mem (t : Scalar) : -1 ≤ sinTurns t ∧ sinTurns t ≤ 1 := by
  unfold sinTurns
  have h1 := sinHalf_mem (frac t)
  have h2 := sinHalf_mem (frac t - 1 / 2)
  simp only
  split_ifs <;> constructor <;> linarith [h1.1, h1.2, h2.1, h2.2]

/-! ### The square root -/

theorem isqrtFrom_sq_le (n : Nat) (b r : Nat) (h : r * r ≤ n) :
    isqrtFrom n b r * isqrtFrom n b r ≤ n := by
  induction b generalizing r with
  | zero => exact h
  | succ b ih =>
    unfold isqrtFrom
    split_ifs with h1
    · exact ih _ h1
    · exact ih _ h

theorem le_isqrtFrom (n : Nat) (b r : Nat) : r ≤ isqrtFrom n b r := by
  induction b generalizing r with
  | zero => exact le_rfl
  | succ b ih =>
    unfold isqrtFrom
    split_ifs
    · exact (Nat.le_add_left _ _).trans (ih _)
    · exact ih _

theorem isqrtFrom_pos {n : Nat} (hn : 1 ≤ n) (b : Nat) : 0 < isqrtFrom n (b + 1) 0 := by
  induction b with
  | zero =>
    unfold isqrtFrom
    rw [if_pos (by simpa using hn)]
    exact lt_of_lt_of_le Nat.one_pos (le_isqrtFrom n 0 _)
  | succ b ih =>
    unfold isqrtFrom
    split_ifs
    · exact lt_of_lt_of_le (by positivity) (le_isqrtFrom n _ _)
    · exact ih

theorem ratSqrt_eq (x : Scalar) : ∃ n b : Nat, n = 2 ^ (2 * gridBits) * x.num.toNat / x.den ∧
    ratSqrt x = (isqrtFrom n (b + 1) 0 : Scalar) / (2 : Scalar) ^ gridBits :=
  ⟨_, _, rfl, by unfold ratSqrt; rw [Rat.mkRat_eq_div]; push_cast; rfl⟩

theorem ratSqrt_pos {x : Scalar} (h : 1 ≤ x) : 0 < ratSqrt x := by
  obtain ⟨n, b, hn, hx⟩ := ratSqrt_eq x
  have h1 : 1 ≤ n := by
    have hd : (x.den : Int) ≤ x.num := by
      have := Rat.mul_den_eq_num x
      have hp : (0 : Scalar) < x.den := by exact_mod_cast x.den_pos
      have h2 : (x.den : Scalar) ≤ x.num := by nlinarith
      exact_mod_cast h2
    rw [hn, Nat.one_le_div_iff x.den_pos]
    exact le_mul_of_one_le_of_le (Nat.one_le_two_pow) (by omega)
  rw [hx]
  exact div_pos (by exact_mod_cast isqrtFrom_pos h1 b) (by positivity)

theorem ratSqrt_sq_le {x : Scalar} (h : 0 ≤ x) : ratSqrt x * ratSqrt x ≤ x := by
  obtain ⟨n, b, hn, hx⟩ := ratSqrt_eq x
  have h1 := isqrtFrom_sq_le n (b + 1) 0 (Nat.zero_le _)
  rw [hx, div_mul_div_comm, div_le_iff₀ (by positivity), ← pow_add, ← two_mul]
  have h2 : n * x.den ≤ 2 ^ (2 * gridBits) * x.num.toNat := hn ▸ Nat.div_mul_le_self _ _
  have hp : (0 : Scalar) < x.den := by exact_mod_cast x.den_pos
  have h3 : x * x.den = x.num.toNat := by
    rw [Rat.mul_den_eq_num]
    exact_mod_cast (Int.toNat_of_nonneg (Rat.num_nonneg.mpr h)).symm
  generalize 2 * gridBits = g at *
  have h4 : (n : Scalar) * x.den ≤ 2 ^ g * (x.num.toNat : Scalar) := by exact_mod_cast h2
  have h5 : (n : Scalar) ≤ x * 2 ^ g := by
    refine le_of_mul_le_mul_right ?_ hp
    rw [mul_right_comm, h3, mul_comm _ ((2 : Scalar) ^ g)]
    exact h4
  refine le_trans ?_ h5
  exact_mod_cast h1

/-! ### Settling -/

/-- Settling a number that is not negative cuts it down to a multiple of the grid's unit. -/
theorem settle_nonneg_le {x : Scalar} (h : 0 ≤ x) : 0 ≤ settle x ∧ settle x ≤ x := by
  have hn : 0 ≤ x.num := Rat.num_nonneg.mpr h
  unfold settle
  have hp : 0 < 2 ^ gridBits := by positivity
  generalize 2 ^ gridBits = g at hp
  have hg : (0 : Scalar) < (g : Scalar) := by exact_mod_cast hp
  have hd : (0 : Scalar) < (x.den : Scalar) := by exact_mod_cast x.den_pos
  have hm : 0 ≤ x.num * (g : Int) := by positivity
  rw [mul_comm, Int.tdiv_eq_ediv_of_nonneg hm, Rat.mkRat_eq_div]
  constructor
  · apply div_nonneg _ (by exact_mod_cast hg.le)
    exact_mod_cast Int.ediv_nonneg hm (by positivity)
  · rw [div_le_iff₀ (by exact_mod_cast hg)]
    have h1 : ((x.num * (g : Int) / (x.den : Int) : Int) : Scalar) * x.den ≤ x.num * g := by
      exact_mod_cast Int.ediv_mul_le (x.num * (g : Int)) (by exact_mod_cast x.den_nz : (x.den : Int) ≠ 0)
    have h3 : x * g * x.den = x.num * g := by rw [mul_right_comm, Rat.mul_den_eq_num x]
    exact le_of_mul_le_mul_right (by rw [h3]; exact h1) hd

theorem settle_neg (x : Scalar) : settle (-x) = -settle x := by
  have h : (-x).num = -x.num := rfl
  have h2 : (-x).den = x.den := rfl
  unfold settle
  generalize 2 ^ gridBits = g
  rw [h, h2, mul_neg, Int.neg_tdiv, Rat.mkRat_eq_div, Rat.mkRat_eq_div]
  push_cast
  ring

/-! ### The record -/

/-- The rational arithmetic meets the properties assumed of `NUM`. -/
theorem ratNum_assumed : ratNum.Assumed where
  pow2_zero := by decide +kernel
  pow2_add_int := ratPow2_add_int
  pow2_pos := ratPow2_pos
  pow2_le _ _ h := exp2Int_eq_zpow (α := Scalar) _ ▸ ratPow2_le h
  le_pow2 _ _ h := exp2Int_eq_zpow (α := Scalar) _ ▸ le_ratPow2 h
  pi_pos := by decide +kernel
  sin_zero := by decide +kernel
  sin_half_pi := by decide +kernel
  cos_zero := by decide +kernel
  cos_half_pi := by decide +kernel
  cos_pi := by decide +kernel
  sin_mem _ := sinTurns_mem _
  cos_mem _ := sinTurns_mem _
  exp_zero := by decide +kernel
  exp_pos _ := ratPow2_pos _
  exp_le_one _ := ratExp_le_one
  sqrt_pos _ := ratSqrt_pos
  sqrt_sq_le _ := ratSqrt_sq_le
  store_neg := settle_neg
  store_mem _ := settle_nonneg_le

end Sys2Proof.Machine
end

