-- ==== Sys2Proof/Laws/Standard.lean ====
section
/-! SUPPORT. The standard configuration is lawful over every arithmetic with the assumed properties; so is
that of the executable block, and that of the exact block, whose arithmetic meets every law of R111. -/

namespace Sys2Proof.Machine

section
set_option linter.unusedSectionVars false
variable {α : Type} [Field α] [LinearOrder α] [IsStrictOrderedRing α] [FloorRing α]

theorem zero_isUnary : IsUnary (0 : α) := ⟨le_rfl, zero_le_one⟩

theorem zeros_inv : (Params.zeros : Params α).Inv := by
  constructor <;> exact zero_isUnary

theorem cubic_neg (u : α) : cubic (-u) = -cubic u := by unfold cubic; ring

/-- The cubic is non-decreasing where the square is at most 2. -/
theorem cubic_mono {l u w : α} (hl : l * l ≤ 2) (hu : -l ≤ u) (huw : u ≤ w) (hw : w ≤ l) :
    cubic u ≤ cubic w := by
  have hu2 : u * u ≤ 2 := by nlinarith
  have hw2 : w * w ≤ 2 := by nlinarith
  have huw2 : u * w ≤ 2 := by nlinarith [sq_nonneg (u - w)]
  unfold cubic
  nlinarith [mul_nonneg (sub_nonneg.mpr huw) (by linarith : (0 : α) ≤ 6 - (u * u + u * w + w * w))]

theorem easeScaler_half : easeScaler (1 / 2 : α) = 9 := by unfold easeScaler; norm_num

/-- The ease is a number in [0, 1] for a progress in [0, 1]. -/
theorem ease_isUnary {N : Numerics α} (hN : N.Assumed) {u : α} (h : IsUnary u) :
    IsUnary (ease N (1 / 2) u) := by
  have h1 : 1 ≤ N.pow2 (9 * (1 - u)) := by
    simpa using hN.le_pow2 (9 * (1 - u)) 0 (by push_cast; linarith [h.2])
  have h2 : N.pow2 (9 * (1 - u)) ≤ 512 := by
    have h3 := hN.pow2_le (9 * (1 - u)) 9 (by push_cast; linarith [h.1])
    norm_num at h3
    exact h3
  have h4 : N.pow2 9 = 512 := by
    have h3 := hN.pow2_add_int 0 9
    rw [hN.pow2_zero] at h3
    norm_num at h3
    exact h3
  unfold ease
  rw [easeScaler_half, h4]
  constructor
  · rw [sub_nonneg, div_le_one (by norm_num)]; linarith
  · rw [sub_le_self_iff]; exact div_nonneg (by linarith) (by norm_num)

theorem lfoWave_isBipolar {N : Numerics α} (hN : N.Assumed) (w : LfoWave) {phase sh : α}
    (h : IsPhase phase) (hs : IsBipolar sh) : IsBipolar (lfoWave N w phase sh) := by
  cases w with
  | sine => exact hN.sin_mem _
  | triangle =>
    have h1 : magnitude (phase - 1 / 2) ≤ 1 / 2 := by
      rw [magnitude_eq_abs, abs_le]; constructor <;> linarith [h.1, h.2]
    have h2 : 0 ≤ magnitude (phase - 1 / 2) := by rw [magnitude_eq_abs]; exact abs_nonneg _
    constructor <;> (unfold lfoWave; linarith)
  | rectangle => unfold lfoWave; split_ifs <;> (unfold IsBipolar; norm_num)
  | descendingSaw => constructor <;> (unfold lfoWave; linarith [h.1, h.2])
  | sampleAndHold => exact hs

/-- The standard configuration is lawful, for an arithmetic with the assumed properties and draws in
[-1, 1]. -/
theorem standard_lawful {N : Numerics α} (hN : N.Assumed) {draw : Nat → α}
    (hd : ∀ n, IsBipolar (draw n)) (seed : Nat → Nat) : (standard N draw seed).Lawful where
  num := hN
  nVoices := by unfold standard; norm_num
  chunk := by unfold standard; norm_num
  pReset := zeros_inv
  draw := hd
  lfoRateMin := by unfold standard; norm_num
  lfoRateMax := by unfold standard; norm_num
  aOut := by unfold standard; norm_num
  aMaster := by unfold standard; norm_num
  cubic_neg := cubic_neg
  cubic_mono _ _ := cubic_mono (hN.sqrt_sq_le 2 (by norm_num))
  ease _ := ease_isUnary hN
  lfoWave w _ _ := lfoWave_isBipolar hN w

end

/-! ### The executable block -/

theorem drawAt_isBipolar (n : Nat) : IsBipolar (drawAt n) :=
  ⟨le_clamp _ _ _ (by norm_num), clamp_le _ _ _ (by norm_num)⟩

theorem std_lawful : std.Lawful := standard_lawful ratNum_assumed drawAt_isBipolar _

@[simp] theorem std_nVoices : std.nVoices = 6 := rfl
@[simp] theorem std_chunk : std.chunk = 32 := rfl

/-! ### The exact block -/

/-- The reals meet every law of 40_numeric_primitives.md R111. -/
theorem realNum_exact : realNum.Exact where
  pow2_zero := Real.rpow_zero 2
  pow2_add_int x n := by
    change (2 : ℝ) ^ (x + (n : ℝ)) = (2 : ℝ) ^ x * (2 : ℝ) ^ n
    rw [Real.rpow_add two_pos, Real.rpow_intCast]
  pow2_pos x := Real.rpow_pos_of_pos two_pos x
  pow2_le x n h := by
    rw [← Real.rpow_intCast]
    exact Real.rpow_le_rpow_of_exponent_le one_le_two h
  le_pow2 x n h := by
    rw [← Real.rpow_intCast]
    exact Real.rpow_le_rpow_of_exponent_le one_le_two h
  pi_pos := Real.pi_pos
  sin_zero := Real.sin_zero
  sin_half_pi := Real.sin_pi_div_two
  cos_zero := Real.cos_zero
  cos_half_pi := Real.cos_pi_div_two
  cos_pi := Real.cos_pi
  sin_mem x := ⟨Real.neg_one_le_sin x, Real.sin_le_one x⟩
  cos_mem x := ⟨Real.neg_one_le_cos x, Real.cos_le_one x⟩
  exp_zero := Real.exp_zero
  exp_pos := Real.exp_pos
  exp_le_one _ h := Real.exp_le_one_iff.mpr h
  sqrt_pos x h := Real.sqrt_pos.mpr (lt_of_lt_of_le one_pos h)
  sqrt_sq_le x h := (Real.mul_self_sqrt h).le
  store_neg _ := rfl
  store_mem x h := ⟨h, le_rfl⟩
  pow2_add := Real.rpow_add two_pos
  exp_add := Real.exp_add
  sin_add := Real.sin_add
  cos_add := Real.cos_add
  sqrt_sq _ h := Real.mul_self_sqrt h
  store_eq _ := rfl

/-- The exact block is lawful, for every value of its open parameters within R4's limits. -/
theorem exactBlock_lawful {nVoices chunk : Nat} (hv : 1 ≤ nVoices) (hc : 1 ≤ chunk) (osc2Pw : ℝ)
    {pReset : Params ℝ} (hp : pReset.Inv) {draw : Nat → ℝ} (hd : ∀ n, IsBipolar (draw n))
    (seed : Nat → Nat) : (exactBlock nVoices chunk osc2Pw pReset draw seed).Lawful :=
  have h := standard_lawful realNum_exact.toAssumed hd seed
  { num := h.num, nVoices := hv, chunk := hc, pReset := hp, draw := hd, lfoRateMin := h.lfoRateMin
    lfoRateMax := h.lfoRateMax, aOut := h.aOut, aMaster := h.aMaster, cubic_neg := h.cubic_neg
    cubic_mono := h.cubic_mono, ease := h.ease, lfoWave := h.lfoWave }

end Sys2Proof.Machine
end

