-- ==== Sys2Proof/Laws/Units.lean ====
section
/-! SUPPORT. What one call of each unit does to its own state, over every lawful configuration: the
router, the oscillator, the filter, the envelope and the LFO. -/

namespace Sys2Proof.Machine

set_option linter.unusedSectionVars false
variable {α : Type} [Field α] [LinearOrder α] [IsStrictOrderedRing α] [FloorRing α]

/-! ### The router -/

theorem lfoSel_of_not {c : Config α} {p : Params α} {t : Target}
    (h : ¬ (p.lfoOn = true ∧ c.targetMap p.lfoTarget = t)) : lfoSel c p t = 0 := by
  simp only [lfoSel, h, if_false]

theorem modSel_of_not {c : Config α} {p : Params α} {t : Target}
    (h : ¬ (p.modOn = true ∧ c.targetMap p.modTarget = t)) : modSel c p t = 0 := by
  simp only [modSel, h, if_false]

theorem routeUnary_isUnary (c : Config α) (p : Params α) (v : Voice α) (base : α) (t : Target) :
    IsUnary (routeUnary c p v base t) := ⟨clamp01_nonneg _, clamp01_le_one _⟩

/-! ### Phase accumulators (the oscillator's R141 and the LFO's R222) -/

theorem frac_isPhase (x : α) : IsPhase (frac x) := ⟨frac_nonneg x, frac_lt_one x⟩

/-- The oscillator's next phase is the fraction of the sum. -/
theorem oscAdvance_phase (c : Config α) (o : OscState α) (dt : α) (draws : Nat) (h : 0 ≤ o.phase + dt) :
    (oscAdvance c o dt draws).1.phase = frac (o.phase + dt) := by
  unfold oscAdvance
  split_ifs with h1
  · rfl
  · exact (Int.fract_eq_self.mpr ⟨h, not_le.mp h1⟩).symm

theorem oscAdvance_isPhase (c : Config α) {o : OscState α} {dt : α} (draws : Nat) (h : IsPhase o.phase)
    (hd : 0 ≤ dt) : IsPhase (oscAdvance c o dt draws).1.phase := by
  rw [oscAdvance_phase _ _ _ _ (by linarith [h.1])]
  exact frac_isPhase _

theorem oscAdvance_sh {c : Config α} (hc : c.Lawful) {o : OscState α} (dt : α) (draws : Nat)
    (h : IsBipolar o.sh) : IsBipolar (oscAdvance c o dt draws).1.sh := by
  unfold oscAdvance
  split_ifs
  · exact hc.draw _
  · exact h

/-- The LFO's next phase is the fraction of the sum. -/
theorem lfoStep_phase (c : Config α) (l : LfoState α) (inc : α) (draws : Nat) (h : 0 ≤ l.phase + inc) :
    (lfoStep c l inc draws).1.phase = frac (l.phase + inc) := by
  unfold lfoStep
  split_ifs with h1
  · rfl
  · exact (Int.fract_eq_self.mpr ⟨h, not_le.mp h1⟩).symm

theorem lfoStep_sh {c : Config α} (hc : c.Lawful) {l : LfoState α} (inc : α) (draws : Nat)
    (h : IsBipolar l.sh) : IsBipolar (lfoStep c l inc draws).1.sh := by
  unfold lfoStep
  split_ifs
  · exact hc.draw _
  · exact h

/-- The LFO's increment is not negative for a rate register in [0, 1] and a positive sample rate. -/
theorem lfoIncrement_nonneg {c : Config α} (hc : c.Lawful) {x rate : α} (hx : IsUnary x)
    (hr : 0 < rate) : 0 ≤ lfoIncrement c x rate := by
  have h : 0 ≤ lerp x c.lfoRateMin c.lfoRateMax := by
    unfold lerp
    nlinarith [hc.lfoRateMin, hc.lfoRateMax, mul_nonneg hc.lfoRateMin (sub_nonneg.mpr hx.2),
      mul_nonneg hc.lfoRateMax hx.1]
  exact mul_nonneg (div_nonneg h hr.le) (Nat.cast_nonneg _)

/-! ### The oscillator's loop -/

theorem oscLoop_length (c : Config α) (q : OscInput α) (xs : List α) (o : OscState α) (draws : Nat) :
    (oscLoop c q xs o draws).1.length = xs.length := by
  induction xs generalizing o draws with
  | nil => rfl
  | cons x xs ih => simp only [oscLoop, List.length_cons, ih]

theorem oscRender_length (c : Config α) (on : Bool) (q : OscInput α) (xs : List α) (o : OscState α)
    (draws : Nat) : (oscRender c on q xs o draws).1.length = xs.length := by
  unfold oscRender
  split_ifs
  · exact oscLoop_length c q xs o draws
  · rfl

/-- A phase stays in [0, 1) and the held value in [-1, 1] over a whole buffer. -/
theorem oscLoop_mem {c : Config α} (hc : c.Lawful) {q : OscInput α} (hd : 0 ≤ q.dt) (xs : List α)
    (o : OscState α) (draws : Nat) (h : IsPhase o.phase) (hs : IsBipolar o.sh) :
    IsPhase (oscLoop c q xs o draws).2.1.phase ∧ IsBipolar (oscLoop c q xs o draws).2.1.sh := by
  induction xs generalizing o draws with
  | nil => exact ⟨h, hs⟩
  | cons x xs ih => exact ih _ _ (oscAdvance_isPhase c _ h hd) (oscAdvance_sh hc _ _ hs)

theorem oscRender_mem {c : Config α} (hc : c.Lawful) (on : Bool) {q : OscInput α} (hd : 0 ≤ q.dt)
    (xs : List α) (o : OscState α) (draws : Nat) (h : IsPhase o.phase) (hs : IsBipolar o.sh) :
    IsPhase (oscRender c on q xs o draws).2.1.phase ∧ IsBipolar (oscRender c on q xs o draws).2.1.sh := by
  unfold oscRender
  split_ifs
  · exact oscLoop_mem hc hd xs o draws h hs
  · exact ⟨h, hs⟩

section
variable {c : Config α} (hc : c.Lawful)
include hc

theorem oscFrequency_pos (note : Fin 128) (shift : Int) (detune pitchMod : α) :
    0 < oscFrequency c note shift detune pitchMod := mul_pos (by norm_num) (hc.num.pow2_pos _)

theorem osc1Input_dt_pos (p : Params α) {rate : α} (hr : 0 < rate) (v : Voice α) :
    0 < (osc1Input c p rate v).dt := div_pos (oscFrequency_pos hc _ _ _ _) hr

theorem osc2Input_dt_pos (p : Params α) {rate : α} (hr : 0 < rate) (v : Voice α) :
    0 < (osc2Input c p rate v).dt := div_pos (oscFrequency_pos hc _ _ _ _) hr

end

/-! ### The filter -/

theorem filterLoop_length (c : Config α) (q : FilterInput α) (xs : List α) (f : FilterState α) :
    (filterLoop c q xs f).1.length = xs.length := by
  induction xs generalizing f with
  | nil => rfl
  | cons x xs ih => simp only [filterLoop, List.length_cons, ih]

theorem filterProcess_length (c : Config α) (on : Bool) (q : FilterInput α) (xs : List α)
    (f : FilterState α) : (filterProcess c on q xs f).1.length = xs.length := by
  unfold filterProcess
  split_ifs
  · exact filterLoop_length c q xs f
  · rfl

/-- A sample of the filter stays within its soft clip, and is what `prevOut` then holds. -/
theorem filterSample_mem {c : Config α} (hc : c.Lawful) (q : FilterInput α) (f : FilterState α) (x : α) :
    (filterSample c q f x).2.prevOut = (filterSample c q f x).1 ∧
      -clipBound c c.aOut ≤ (filterSample c q f x).1 ∧ (filterSample c q f x).1 ≤ clipBound c c.aOut := by
  refine ⟨rfl, ?_⟩
  unfold filterSample
  exact store_mem hc.num (softClip_mem hc _ hc.aOut).1 (softClip_mem hc _ hc.aOut).2

theorem filterLoop_prevOut {c : Config α} (hc : c.Lawful) (q : FilterInput α) (xs : List α)
    (f : FilterState α) (h : -clipBound c c.aOut ≤ f.prevOut ∧ f.prevOut ≤ clipBound c c.aOut) :
    -clipBound c c.aOut ≤ (filterLoop c q xs f).2.prevOut ∧
      (filterLoop c q xs f).2.prevOut ≤ clipBound c c.aOut := by
  induction xs generalizing f with
  | nil => exact h
  | cons x xs ih => exact ih _ ((filterSample_mem hc q f x).1 ▸ (filterSample_mem hc q f x).2)

theorem filterLoop_hpG (c : Config α) (q : FilterInput α) (xs : List α) (f : FilterState α) :
    (filterLoop c q xs f).2.hpG = f.hpG := by
  induction xs generalizing f with
  | nil => rfl
  | cons x xs ih => exact ih _

theorem filterProcess_hpG (c : Config α) (on : Bool) (q : FilterInput α) (xs : List α)
    (f : FilterState α) : (filterProcess c on q xs f).2.hpG = f.hpG := by
  unfold filterProcess
  split_ifs
  · exact filterLoop_hpG c q xs f
  · rfl

/-! ### The envelope -/

theorem one_isUnary : IsUnary (1 : α) := ⟨zero_le_one, le_rfl⟩

theorem div_isUnary {t d : α} (h0 : 0 ≤ t) (h : t < d) : IsUnary (t / d) :=
  ⟨div_nonneg h0 (h0.trans h.le), (div_le_one (lt_of_le_of_lt h0 h)).mpr h.le⟩

/-- A segment between two unaries stays one. -/
theorem egSegment_isUnary {c : Config α} (hc : c.Lawful) {u a b : α} (hu : IsUnary u) (ha : IsUnary a)
    (hb : IsUnary b) : IsUnary (egSegment c u a b) :=
  lerp_mem (hc.ease u hu).1 (hc.ease u hu).2 ha.1 ha.2 hb.1 hb.2

/-- An advance leaves both of the envelope's numbers in [0, 1]. -/
theorem egAdvance_isUnary {c : Config α} (hc : c.Lawful) {q : EgInput α} (hs : IsUnary q.sustain)
    (gate : Bool) {tOn tOff : α} (h1 : 0 ≤ tOn) (h2 : 0 ≤ tOff) {e : EgState α} (hl : IsUnary e.level)
    (hr : IsUnary e.relStart) :
    IsUnary (egAdvance c q gate tOn tOff e).level ∧ IsUnary (egAdvance c q gate tOn tOff e).relStart := by
  have hrs : IsUnary (egLatch gate tOff e) := by unfold egLatch; split_ifs <;> assumption
  refine ⟨?_, hrs⟩
  unfold egAdvance egHeld egReleased
  dsimp only
  split_ifs with _ _ _ ha hd hrel
  · exact one_isUnary
  · exact zero_isUnary
  · exact egSegment_isUnary hc (div_isUnary h1 ha) zero_isUnary one_isUnary
  · exact egSegment_isUnary hc (div_isUnary (by linarith) (by linarith)) one_isUnary hs
  · exact hs
  · exact egSegment_isUnary hc (div_isUnary h2 hrel) hrs zero_isUnary
  · exact zero_isUnary

theorem clickGainOf_isUnary {c : Config α} (hc : c.Lawful) (gate : Bool) (tOn : α) :
    IsUnary (clickGainOf c gate tOn) := by
  unfold clickGainOf
  split_ifs
  · have h := hc.num.cos_mem (c.num.pi * tOn / c.clickSec)
    constructor <;> linarith [h.1, h.2]
  · exact one_isUnary

/-- The click gain is 0 at the start of a note. -/
theorem clickGainOf_zero {c : Config α} (hc : c.Lawful) (h : 0 < c.clickSec) :
    clickGainOf c true 0 = 0 := by
  unfold clickGainOf
  rw [if_pos ⟨rfl, h⟩, mul_zero, zero_div, hc.num.cos_zero]
  norm_num

end Sys2Proof.Machine
end

