-- ==== Sys2Proof/Laws/Voice.lean ====
section
/-! SUPPORT. What VOICE.RENDER does to a voice, field by field, and the voice's invariant. -/

namespace Sys2Proof.Machine

set_option linter.unusedSectionVars false
variable {α : Type} [Field α] [LinearOrder α] [IsStrictOrderedRing α] [FloorRing α]
variable {c : Config α}

theorem silence_length (c : Config α) : (silence c).length = c.chunk := List.length_replicate

/-! ### The snapshot -/

section Snapshot
variable (p : Params α) (rate : α) (v : Voice α) (draws : Nat)

@[simp] theorem voiceSnapshot_note : (voiceSnapshot c p rate v draws).1.note = v.note := rfl
@[simp] theorem voiceSnapshot_gateOn : (voiceSnapshot c p rate v draws).1.gateOn = v.gateOn := rfl
@[simp] theorem voiceSnapshot_gateOnUptime :
    (voiceSnapshot c p rate v draws).1.gateOnUptime = v.gateOnUptime := rfl
@[simp] theorem voiceSnapshot_gateOffUptime :
    (voiceSnapshot c p rate v draws).1.gateOffUptime = v.gateOffUptime := rfl
@[simp] theorem voiceSnapshot_seed : (voiceSnapshot c p rate v draws).1.seed = v.seed := rfl
@[simp] theorem voiceSnapshot_osc1 : (voiceSnapshot c p rate v draws).1.osc1 = v.osc1 := rfl
@[simp] theorem voiceSnapshot_osc2 : (voiceSnapshot c p rate v draws).1.osc2 = v.osc2 := rfl
@[simp] theorem voiceSnapshot_filt : (voiceSnapshot c p rate v draws).1.filt = v.filt := rfl
@[simp] theorem voiceSnapshot_lfo : (voiceSnapshot c p rate v draws).1.lfo =
    (lfoStep c v.lfo (lfoIncrement c p.lfoRate rate) draws).1 := rfl
@[simp] theorem voiceSnapshot_clickGain : (voiceSnapshot c p rate v draws).1.clickGain =
    clickGainOf c v.gateOn v.gateOnUptime := rfl

end Snapshot

/-! ### The invariant -/

theorem ampInput_sustain (p : Params α) : (ampInput c p).sustain = p.ampSustain := rfl

section Invariant
variable (hc : c.Lawful)
include hc

theorem Voice.Inv.snapshot {p : Params α} (hp : p.Inv) {rate : α} (hr : 0 < rate) {v : Voice α}
    (h : v.Inv c) (draws : Nat) : (voiceSnapshot c p rate v draws).1.Inv c := by
  have hi := lfoIncrement_nonneg hc hp.lfoRate hr
  have hph : IsPhase (lfoStep c v.lfo (lfoIncrement c p.lfoRate rate) draws).1.phase := by
    rw [lfoStep_phase _ _ _ _ (by linarith [h.lfoPhase.1])]; exact frac_isPhase _
  have hsh := lfoStep_sh hc (lfoIncrement c p.lfoRate rate) draws h.lfoSh
  have ha := egAdvance_isUnary hc (q := ampInput c p) hp.ampSustain v.gateOn h.gateOnUptime
    h.gateOffUptime h.ampLevel h.ampRelStart
  have hm := egAdvance_isUnary hc (q := modInput c p) zero_isUnary v.gateOn h.gateOnUptime
    h.gateOffUptime h.modLevel h.modRelStart
  exact
    { osc1Phase := h.osc1Phase, osc2Phase := h.osc2Phase, lfoPhase := hph, osc1Sh := h.osc1Sh
      osc2Sh := h.osc2Sh, lfoSh := hsh, ampLevel := ha.1, ampRelStart := ha.2, modLevel := hm.1
      modRelStart := hm.2, clickGain := clickGainOf_isUnary hc _ _
      lfoOut := hc.lfoWave _ _ _ hph hsh, prevOut := h.prevOut
      gateOnUptime := h.gateOnUptime, gateOffUptime := h.gateOffUptime }

theorem Voice.Inv.oscillators {p : Params α} {rate : α} (hr : 0 < rate) {v : Voice α} (h : v.Inv c)
    (draws : Nat) : (voiceOscillators c p rate v draws).2.1.Inv c := by
  have h1 := oscRender_mem hc p.osc1On (osc1Input_dt_pos hc p hr v).le (silence c) v.osc1 draws
    h.osc1Phase h.osc1Sh
  have h2 := oscRender_mem hc p.osc2On (osc2Input_dt_pos hc p hr v).le
    (oscRender c p.osc1On (osc1Input c p rate v) (silence c) v.osc1 draws).1 v.osc2
    (oscRender c p.osc1On (osc1Input c p rate v) (silence c) v.osc1 draws).2.2 h.osc2Phase h.osc2Sh
  exact { h with osc1Phase := h1.1, osc1Sh := h1.2, osc2Phase := h2.1, osc2Sh := h2.2 }

theorem Voice.Inv.filter (p : Params α) (rate : α) (scratch : List α) {v : Voice α} (h : v.Inv c) :
    (voiceFilter c p rate scratch v).2.Inv c := by
  refine { h with prevOut := ?_ }
  change -clipBound c c.aOut ≤ (filterProcess c p.filterOn _ scratch v.filt).2.prevOut ∧
    (filterProcess c p.filterOn _ scratch v.filt).2.prevOut ≤ _
  unfold filterProcess
  split_ifs
  · exact filterLoop_prevOut hc _ _ _ h.prevOut
  · exact h.prevOut

omit hc in
theorem Voice.Inv.time {rate : α} (hr : 0 < rate) {v : Voice α} (h : v.Inv c) :
    (voiceTime c rate v).Inv c := by
  have ht : 0 ≤ (c.chunk : α) / rate := div_nonneg (Nat.cast_nonneg _) hr.le
  unfold voiceTime
  split_ifs
  · exact { h with gateOnUptime := add_nonneg h.gateOnUptime ht }
  · exact { h with gateOffUptime := add_nonneg h.gateOffUptime ht }

/-- A rendering keeps the voice's invariant, for a positive rate and registers within their types. -/
theorem Voice.Inv.render {p : Params α} (hp : p.Inv) {rate : α} (hr : 0 < rate) {v : Voice α}
    (h : v.Inv c) (draws : Nat) : (voiceRender c p rate v draws).2.1.Inv c :=
  ((((h.snapshot hc hp hr draws).oscillators hc hr _).filter hc p rate _).time hr)

theorem Voice.Inv.noteOn (n : Fin 128) (seed : Nat) {v : Voice α} (h : v.Inv c) :
    (voiceNoteOn n seed v).Inv c :=
  have hz : IsPhase (0 : α) := ⟨le_rfl, zero_lt_one⟩
  have hb : 0 ≤ clipBound c c.aOut := clipBound_nonneg hc hc.aOut
  { h with
    osc1Phase := hz, osc2Phase := hz, lfoPhase := hz, osc1Sh := h.osc1Sh, osc2Sh := h.osc2Sh
    lfoSh := h.lfoSh, prevOut := ⟨neg_nonpos.mpr hb, hb⟩, gateOnUptime := le_rfl
    gateOffUptime := le_rfl }

omit hc in
theorem Voice.Inv.noteOff {v : Voice α} (h : v.Inv c) : (voiceNoteOff v).Inv c :=
  { h with gateOffUptime := le_rfl }

omit hc in
theorem Voice.Inv.setSampleRate (rate : α) {v : Voice α} (h : v.Inv c) :
    ({ v with filt := filterSetSampleRate c v.filt rate } : Voice α).Inv c := { h with }

/-- An idle voice meets the invariant. -/
theorem Voice.reset_inv : (Voice.reset c).Inv c :=
  have hz : IsPhase (0 : α) := ⟨le_rfl, zero_lt_one⟩
  have hp : IsBipolar (0 : α) := ⟨by norm_num, zero_le_one⟩
  have hb : 0 ≤ clipBound c c.aOut := clipBound_nonneg hc hc.aOut
  { osc1Phase := hz, osc2Phase := hz, lfoPhase := hz, osc1Sh := hp, osc2Sh := hp, lfoSh := hp
    ampLevel := zero_isUnary, ampRelStart := zero_isUnary, modLevel := zero_isUnary
    modRelStart := zero_isUnary, clickGain := one_isUnary, lfoOut := hp
    prevOut := ⟨neg_nonpos.mpr hb, hb⟩, gateOnUptime := le_rfl, gateOffUptime := le_rfl }

end Invariant

/-! ### The scratch buffer -/

theorem voiceOscillators_length (c : Config α) (p : Params α) (rate : α) (v : Voice α) (draws : Nat) :
    (voiceOscillators c p rate v draws).1.length = c.chunk :=
  (oscRender_length _ _ _ _ _ _).trans ((oscRender_length _ _ _ _ _ _).trans (silence_length c))

theorem voiceRender_length (c : Config α) (p : Params α) (rate : α) (v : Voice α) (draws : Nat) :
    (voiceRender c p rate v draws).1.length = c.chunk :=
  (List.length_map _).trans ((filterProcess_length _ _ _ _ _).trans (voiceOscillators_length _ _ _ _ _))

/-! ### What a rendering leaves alone -/

theorem voiceTime_note (c : Config α) (rate : α) (v : Voice α) :
    (voiceTime c rate v).note = v.note ∧ (voiceTime c rate v).gateOn = v.gateOn ∧
      (voiceTime c rate v).seed = v.seed ∧ (voiceTime c rate v).filt = v.filt := by
  unfold voiceTime
  split_ifs <;> exact ⟨rfl, rfl, rfl, rfl⟩

/-- The note, the gate, the seed and the highpass coefficient are no rendering's to write. -/
theorem voiceRender_keeps (c : Config α) (p : Params α) (rate : α) (v : Voice α) (draws : Nat) :
    (voiceRender c p rate v draws).2.1.note = v.note ∧ (voiceRender c p rate v draws).2.1.gateOn = v.gateOn ∧
      (voiceRender c p rate v draws).2.1.seed = v.seed ∧
      (voiceRender c p rate v draws).2.1.filt.hpG = v.filt.hpG := by
  unfold voiceRender
  dsimp only
  obtain ⟨h1, h2, h3, h4⟩ := voiceTime_note c rate (voiceFilter c p rate
    (voiceOscillators c p rate (voiceSnapshot c p rate v draws).1 (voiceSnapshot c p rate v draws).2).1
    (voiceOscillators c p rate (voiceSnapshot c p rate v draws).1 (voiceSnapshot c p rate v draws).2).2.1).2
  exact ⟨h1, h2, h3, (congrArg FilterState.hpG h4).trans (filterProcess_hpG _ _ _ _ _)⟩

end Sys2Proof.Machine
end

