-- ==== Sys2Proof/Laws/Engine.lean ====
section
/-! SUPPORT. What a regeneration and the frame loop do over any configuration, and the inversion lemmas of
the commands and the step. -/

namespace Sys2Proof.Machine

set_option linter.unusedSectionVars false

section
variable {α : Type} [Field α] [LinearOrder α] [IsStrictOrderedRing α] [FloorRing α]
variable (c : Config α)

/-! ### Rendering the pool -/

theorem renderVoices_length (p : Params α) (rate : α) (vs : List (Voice α)) (draws : Nat) :
    (renderVoices c p rate vs draws).1.length = vs.length := by
  induction vs generalizing draws with
  | nil => rfl
  | cons v vs ih => simp only [renderVoices, List.length_cons, ih]

theorem renderVoices_buffer_length (p : Params α) (rate : α) (vs : List (Voice α)) (draws : Nat) :
    (renderVoices c p rate vs draws).2.1.length = c.chunk := by
  induction vs generalizing draws with
  | nil => exact silence_length c
  | cons v vs ih =>
    simp only [renderVoices, List.length_zipWith, ih, voiceRender_length, min_self]

theorem renderVoices_inv {c : Config α} (hc : c.Lawful) {p : Params α} (hp : p.Inv) {rate : α}
    (hr : 0 < rate) (vs : List (Voice α)) (draws : Nat) (h : ∀ v ∈ vs, v.Inv c) :
    ∀ v ∈ (renderVoices c p rate vs draws).1, v.Inv c := by
  induction vs generalizing draws with
  | nil => exact h
  | cons v vs ih =>
    obtain ⟨h1, h2⟩ := List.forall_mem_cons.mp h
    exact List.forall_mem_cons.mpr ⟨h1.render hc hp hr draws, ih _ h2⟩

/-! ### A regeneration -/

section Regenerate
variable (s : StateOf α)

@[simp] theorem regenerate_params : (regenerate c s).params = s.params := rfl
@[simp] theorem regenerate_prepared : (regenerate c s).prepared = s.prepared := rfl
@[simp] theorem regenerate_sampleRate : (regenerate c s).sampleRate = s.sampleRate := rfl
@[simp] theorem regenerate_maxFrames : (regenerate c s).maxFrames = s.maxFrames := rfl
@[simp] theorem regenerate_cursor : (regenerate c s).cursor = s.cursor := rfl
@[simp] theorem regenerate_inbox : (regenerate c s).inbox = s.inbox := rfl
@[simp] theorem regenerate_frames : (regenerate c s).frames = s.frames := rfl
@[simp] theorem regenerate_seedCount : (regenerate c s).seedCount = s.seedCount := rfl
theorem regenerate_voices : (regenerate c s).voices =
    (renderVoices c s.params s.sampleRate s.voices s.drawCount).1 := rfl
theorem regenerate_chunk : (regenerate c s).chunk =
    (renderVoices c s.params s.sampleRate s.voices s.drawCount).2.1.map (mixSample c) := rfl

theorem regenerate_chunk_length : (regenerate c s).chunk.length = c.chunk :=
  (List.length_map _).trans (renderVoices_buffer_length _ _ _ _ _)

theorem regenerate_voices_length : (regenerate c s).voices.length = s.voices.length :=
  renderVoices_length _ _ _ _ _

end Regenerate

/-- Every entry of a new chunk is within the bound of the output clip. -/
theorem regenerate_chunk_mem {c : Config α} (hc : c.Lawful) (s : StateOf α) :
    ∀ x ∈ (regenerate c s).chunk, -clipBound c c.aMaster ≤ x ∧ x ≤ clipBound c c.aMaster := by
  intro x hx
  rw [regenerate_chunk] at hx
  obtain ⟨y, _, rfl⟩ := List.mem_map.mp hx
  exact softClip_mem hc _ hc.aMaster

/-- A regeneration in a prepared state keeps the invariant. -/
theorem StateOf.Inv.regenerate {c : Config α} (hc : c.Lawful) {s : StateOf α} (h : s.Inv c)
    (hp : s.prepared = true) : (Machine.regenerate c s).Inv c where
  params := h.params
  voices := renderVoices_inv hc h.params (h.rate hp) _ _ h.voices
  nVoices := (regenerate_voices_length c s).trans h.nVoices
  cursor := h.cursor
  chunkLength := regenerate_chunk_length c s
  chunk := regenerate_chunk_mem hc s
  rate := h.rate

/-! ### The frame loop -/

/-- One frame, with the chunk current: the entry at the cursor goes out and the cursor advances. -/
theorem processFrame_of_cursor_ne_zero {s : StateOf α} (h : s.cursor ≠ 0) :
    processFrame c s = (s.emit (toF32 s.chunkSample)).advanceCursor c := by
  simp only [processFrame, h, if_false]

theorem processFrame_of_cursor_zero {s : StateOf α} (h : s.cursor = 0) :
    processFrame c s =
      ((Machine.regenerate c s).emit (toF32 (Machine.regenerate c s).chunkSample)).advanceCursor c := by
  simp only [processFrame, h, if_true]

theorem processFrames_add (m n : Nat) (s : StateOf α) :
    processFrames c (m + n) s = processFrames c n (processFrames c m s) := by
  induction m generalizing s with
  | zero => rw [Nat.zero_add]; rfl
  | succ m ih => rw [Nat.succ_add]; exact ih _

/-- What a frame leaves alone. -/
theorem processFrame_keeps (s : StateOf α) :
    (processFrame c s).params = s.params ∧ (processFrame c s).prepared = s.prepared ∧
      (processFrame c s).sampleRate = s.sampleRate ∧ (processFrame c s).maxFrames = s.maxFrames ∧
      (processFrame c s).inbox = s.inbox ∧ (processFrame c s).seedCount = s.seedCount := by
  unfold processFrame
  dsimp only
  split_ifs <;> exact ⟨rfl, rfl, rfl, rfl, rfl, rfl⟩

theorem processFrame_cursor (s : StateOf α) :
    (processFrame c s).cursor = (s.cursor + 1) % c.chunk := by
  unfold processFrame
  dsimp only
  split_ifs <;> rfl

theorem processFrame_frames (s : StateOf α) :
    ∃ q : F32, (processFrame c s).frames = ⟨q, q⟩ :: s.frames := by
  unfold processFrame
  dsimp only
  split_ifs
  · exact ⟨toF32 (Machine.regenerate c s).chunkSample, rfl⟩
  · exact ⟨toF32 s.chunkSample, rfl⟩

/-- What the frame loop leaves alone. -/
theorem processFrames_keeps (n : Nat) (s : StateOf α) :
    (processFrames c n s).params = s.params ∧ (processFrames c n s).prepared = s.prepared ∧
      (processFrames c n s).sampleRate = s.sampleRate ∧ (processFrames c n s).maxFrames = s.maxFrames ∧
      (processFrames c n s).inbox = s.inbox ∧ (processFrames c n s).seedCount = s.seedCount := by
  induction n generalizing s with
  | zero => exact ⟨rfl, rfl, rfl, rfl, rfl, rfl⟩
  | succ n ih =>
    obtain ⟨h1, h2, h3, h4, h5, h6⟩ := processFrame_keeps c s
    obtain ⟨k1, k2, k3, k4, k5, k6⟩ := ih (processFrame c s)
    exact ⟨k1.trans h1, k2.trans h2, k3.trans h3, k4.trans h4, k5.trans h5, k6.trans h6⟩

/-- A frame in a prepared state keeps the invariant. -/
theorem StateOf.Inv.processFrame {c : Config α} (hc : c.Lawful) {s : StateOf α} (h : s.Inv c)
    (hp : s.prepared = true) : (Machine.processFrame c s).Inv c := by
  have h1 : (if s.cursor = 0 then Machine.regenerate c s else s).Inv c := by
    split_ifs
    · exact h.regenerate hc hp
    · exact h
  exact
    { params := h1.params, voices := h1.voices, nVoices := h1.nVoices
      cursor := Nat.mod_lt _ hc.chunk, chunkLength := h1.chunkLength, chunk := h1.chunk
      rate := h1.rate }

/-! ### What a command can do -/

/-- The rate of an accepted PREPARE is its operand, and positive. -/
theorem acceptedRate_eq_some {f : F32} {r : Rat} :
    acceptedRate f = some r ↔ f32Value f = some (.finite r) ∧ 0 < r := by
  unfold acceptedRate
  constructor
  · intro h
    split at h
    · rename_i x hx
      split_ifs at h with hpos
      exact Option.some.inj h ▸ ⟨hx, hpos⟩
    · cases h
    · cases h
    · cases h
  · rintro ⟨h1, h2⟩
    simp only [h1, h2, if_true]

/-- Everything PREPARE can do. -/
theorem prepareCommand_cases (f : F32) (a : Half) (s : StateOf α) :
    (∃ r : Rat, acceptedRate f = some r ∧ prepareCommand c f a s = prepareState c (r : α) a s) ∨
      (acceptedRate f = none ∧ prepareCommand c f a s = s) := by
  unfold prepareCommand
  cases h : acceptedRate f with
  | some r => exact .inl ⟨r, rfl, rfl⟩
  | none => exact .inr ⟨rfl, rfl⟩

/-- Everything SETPARAM can do. -/
theorem setparamCommand_cases (k : Half) (f : F32) (s : StateOf α) :
    (∃ x, f32Value f = some x ∧ setparamCommand k f s = s.setParams (s.params.write k.toNat x)) ∨
      (f32Value f = none ∧ setparamCommand k f s = s) := by
  unfold setparamCommand
  cases h : f32Value f with
  | some x => exact .inl ⟨x, rfl, rfl⟩
  | none => exact .inr ⟨rfl, rfl⟩

/-- Everything NOTEON can do. -/
theorem noteonCommand_cases (a : Half) (s : StateOf α) :
    (∃ n, noteOperand a = some n ∧ s.prepared = true ∧ noteonCommand c a s = noteOnState c n s) ∨
      ((noteOperand a = none ∨ s.prepared = false) ∧ noteonCommand c a s = s) := by
  unfold noteonCommand
  cases h : noteOperand a with
  | none => exact .inr ⟨.inl rfl, rfl⟩
  | some n =>
    cases hp : s.prepared with
    | true => exact .inl ⟨n, rfl, rfl, by simp only [if_true]⟩
    | false => exact .inr ⟨.inr rfl, by simp⟩

/-- Everything NOTEOFF can do. -/
theorem noteoffCommand_cases (a : Half) (s : StateOf α) :
    (∃ n, noteOperand a = some n ∧ noteoffCommand a s = s.setVoices (releaseNote n s.voices)) ∨
      (noteOperand a = none ∧ noteoffCommand a s = s) := by
  unfold noteoffCommand
  cases h : noteOperand a with
  | some n => exact .inl ⟨n, rfl, rfl⟩
  | none => exact .inr ⟨rfl, rfl⟩

/-- Everything PROCESS can do. -/
theorem processCommand_cases (a : Half) (s : StateOf α) :
    (s.prepared = true ∧ processCommand c a s = processFrames c a.toNat s) ∨
      (s.prepared = false ∧ processCommand c a s = s.emitSilence a.toNat) := by
  unfold processCommand
  cases h : s.prepared with
  | true => exact .inl ⟨rfl, by simp only [if_true]⟩
  | false => exact .inr ⟨rfl, by simp⟩

/-- Everything a step can do. -/
theorem blockStep_cases (s : StateOf α) :
    (s.inbox = [] ∧ blockStep c s = s) ∨
      ∃ w ws, s.inbox = w :: ws ∧
        ((∃ i, decode w = .legal i ∧ blockStep c s = command c i (s.setInbox ws)) ∨
          (∃ why, decode w = .illegal why ∧ blockStep c s = s.setInbox ws)) := by
  unfold blockStep
  cases hs : s.inbox with
  | nil => exact .inl ⟨rfl, rfl⟩
  | cons w ws =>
    refine .inr ⟨w, ws, rfl, ?_⟩
    unfold wordCommand
    cases hd : decode w with
    | legal i => exact .inl ⟨i, rfl, by simp only [hd]⟩
    | illegal why => exact .inr ⟨why, rfl, by simp only [hd]⟩

end

/-! ### The executable block -/

/-- A meaning is its command at the configuration `std`. -/
theorem exec_eq (i : Instr) (s : State) : exec i s = .next ⟨command std i s.toStateOf⟩ := by
  cases i <;> rfl

/-- The step is the block's step at the configuration `std`. -/
theorem step_eq (s : State) : step s = .next ⟨blockStep std s.toStateOf⟩ := by
  unfold step takeCommand blockStep
  cases hs : s.inbox with
  | nil => rfl
  | cons w ws =>
    unfold deliver wordCommand
    cases hd : decode w with
    | legal i => simp only [hd, exec_eq]; rfl
    | illegal why => simp only [hd]; rfl

end Sys2Proof.Machine
end

