-- ==== Sys2Proof/Laws/PerInstr.lean ====
section
/-! SUPPORT. Statements made per instruction: the encoding of a well-formed command against its row of
the opcode table (30_encoding.md R88). -/

namespace Sys2Proof.Laws.TableRow

/-- The encoding of a well-formed command matches its row of the opcode table. -/
def Statement (i : Instr) : Prop := i.wellFormed = true → encode i &&& i.tableMask = i.tableMatch

/-- A bit of a command word: the fields of format C, the most significant first (R81). -/
theorem formatC_getLsbD (op : BitVec 8) (a : Half) (f : F32) (k : Nat) :
    (formatC op a f).getLsbD k =
      if k < 32 then f.getLsbD k
      else if k < 48 then a.getLsbD (k - 32)
      else if k < 56 then false
      else op.getLsbD (k - 56) := by
  simp only [formatC, BitVec.getLsbD_append]
  split_ifs <;> first | rfl | omega | simp [Nat.sub_sub]

theorem prepare (f : F32) (a : Half) : Statement (.prepare f a) := by
  intro _
  apply BitVec.eq_of_getLsbD_eq
  intro k hk
  simp only [encode, Instr.tableMask, Instr.tableMatch, BitVec.getLsbD_and, formatC_getLsbD]
  interval_cases k <;> simp

theorem setparam (a : Half) (f : F32) : Statement (.setparam a f) := by
  intro _
  apply BitVec.eq_of_getLsbD_eq
  intro k hk
  simp only [encode, Instr.tableMask, Instr.tableMatch, BitVec.getLsbD_and, formatC_getLsbD]
  interval_cases k <;> simp

/-- A note in range has no bit from 7 up. -/
theorem noteInRange_getElem {a : Half} (h : noteInRange a = true) (k : Nat) (hk : k < 16) (h7 : 7 ≤ k) :
    a[k] = false := by
  have h1 : a.toNat < 2 ^ 7 := by have := of_decide_eq_true h; omega
  rw [← BitVec.getLsbD_eq_getElem]
  exact Nat.testBit_lt_two_pow (h1.trans_le (Nat.pow_le_pow_right (by decide) h7))

theorem noteon (a : Half) (f : F32) : Statement (.noteon a f) := by
  intro h
  have hn := noteInRange_getElem (a := a) h
  apply BitVec.eq_of_getLsbD_eq
  intro k hk
  simp only [encode, Instr.tableMask, Instr.tableMatch, BitVec.getLsbD_and, formatC_getLsbD]
  interval_cases k <;> simp [hn]

theorem noteoff (a : Half) : Statement (.noteoff a) := by
  intro h
  have hn := noteInRange_getElem (a := a) h
  apply BitVec.eq_of_getLsbD_eq
  intro k hk
  simp only [encode, Instr.tableMask, Instr.tableMatch, BitVec.getLsbD_and, formatC_getLsbD]
  interval_cases k <;> simp [hn]

theorem process (a : Half) : Statement (.process a) := by
  intro _
  apply BitVec.eq_of_getLsbD_eq
  intro k hk
  simp only [encode, Instr.tableMask, Instr.tableMatch, BitVec.getLsbD_and, formatC_getLsbD]
  interval_cases k <;> simp

end Sys2Proof.Laws.TableRow
end

