-- ==== Sys2Proof/Tests/Slice0.lean ====
section
/-! SUPPORT. The model's own tests: which terms are well formed, the decoding of words written out from
the spec's encoding, at most two small tests of each command on the spec's worked examples, and, for
every statement with hypotheses, a concrete case that meets them (`test_hyp_...`). -/

open Sys2Proof Sys2Proof.Machine

namespace Sys2Proof.Tests

/- One theorem at a time: each kernel evaluation in flight would hold a thread and its stack. -/
set_option Elab.async false

/-! ## Well-formed terms (30_encoding.md R83, R88 step 3) -/

theorem test_wellFormed_refuses_note_128 :
    Instr.wellFormed (.noteon 128 0) = false ∧ Instr.wellFormed (.noteoff 128) = false := by decide

theorem test_wellFormed_admits_note_127 :
    Instr.wellFormed (.noteon 127 0x7FC00000) = true ∧ Instr.wellFormed (.noteoff 0) = true ∧
      Instr.wellFormed (.prepare 0xFFFFFFFF 0xFFFF) = true ∧
      Instr.wellFormed (.setparam 0xFFFF 0xFFFFFFFF) = true ∧
      Instr.wellFormed (.process 0xFFFF) = true := by decide

/-! ## Decoding of words written out bit by bit: op, rsv, a, f (30_encoding.md R81, R83) -/

/-- `PREPARE 44100.0, 128` (47_engine_commands.md R280's example word `0x01000080472C4400`). -/
theorem test_decode_prepare :
    decode (0b00000001_00000000_0000000010000000_01000111001011000100010000000000#64) =
      .legal (.prepare 0x472C4400 128) := by decide

/-- `SETPARAM 24, +Inf` (R281's `0x020000187F800000`). -/
theorem test_decode_setparam :
    decode (0b00000010_00000000_0000000000011000_01111111100000000000000000000000#64) =
      .legal (.setparam 24 0x7F800000) := by decide

/-- `NOTEON 69, 0.8` (R282's `0x030000453F4CCCCD`). -/
theorem test_decode_noteon :
    decode (0b00000011_00000000_0000000001000101_00111111010011001100110011001101#64) =
      .legal (.noteon 69 0x3F4CCCCD) := by decide

/-- `NOTEOFF 60` (R284's `0x0400003C00000000`). -/
theorem test_decode_noteoff :
    decode (0b00000100_00000000_0000000000111100_00000000000000000000000000000000#64) =
      .legal (.noteoff 60) := by decide

/-- `PROCESS 1000` (R285's `0x050003E800000000`). -/
theorem test_decode_process :
    decode (0b00000101_00000000_0000001111101000_00000000000000000000000000000000#64) =
      .legal (.process 1000) := by decide

/-- R88's order: a non-zero `rsv` first, then a reserved `op`, then the note, then `f`. -/
theorem test_decode_rejects_in_order :
    decode 0xFF010080FFFFFFFF = .illegal .reservedFieldNonzero ∧
      decode 0x0000000000000000 = .illegal .reservedOpcode ∧
      decode 0x0600000000000000 = .illegal .reservedOpcode ∧
      decode 0x0400008000000001 = .illegal .noteAbove127 ∧
      decode 0x0400003C00000001 = .illegal .floatFieldNonzero ∧
      decode 0x0500000180000000 = .illegal .floatFieldNonzero := by decide

/-- R61: the least significant byte comes first. -/
theorem test_decode_bytes :
    decodeBytes [0x00, 0x00, 0x00, 0x00, 0x3C, 0x00, 0x00, 0x04, 0xAA] =
      some (.legal (.noteoff 60), [0xAA]) := by decide

/-- R89, R61: the frame of 0.5 and -0.25 as `{right, left}`, and its bytes. -/
theorem test_frame_item :
    Frame.item ⟨0x3F000000, 0xBE800000⟩ = 0xBE8000003F000000 ∧
      Frame.bytes ⟨0x3F000000, 0xBE800000⟩ = [0x00, 0x00, 0x00, 0x3F, 0x00, 0x00, 0x80, 0xBE] := by
  decide

theorem test_decodeTableWord :
    decodeTableWord 64 0x0400003C00000000 = some (.noteoff 60) ∧
      decodeTableWord 64 0x0400008000000000 = none := by decide

/-! ## Small states -/

/-- A voice playing `n`, for `up` seconds. -/
def playing (n : Fin 128) (up : Scalar) : Voice Scalar :=
  { Voice.reset std with note := n, gateOn := true, gateOnUptime := up }

/-- A voice released `off` seconds ago. -/
def released (n : Fin 128) (off : Scalar) : Voice Scalar :=
  { Voice.reset std with note := n, gateOffUptime := off }

/-- A prepared state at 48000 Hz with the given voices, cursor and chunk. -/
def prepared (vs : List (Voice Scalar)) (cursor : Nat) (chunk : List Scalar) : State :=
  { State.reset with
    prepared := true
    sampleRate := 48000
    voices := vs
    cursor := cursor
    chunk := chunk }

/-- Six idle voices, silent chunk. -/
def idle : State := prepared State.reset.voices 0 (silence std)

/-- The next state of an answer, the given one where there is none. -/
def nextOr (d : State) : Answer → State
  | .next s => s
  | .fault _ => d
  | .refused _ => d

/-! ## Commands -/

/-- R280: `PREPARE 48000.0, 128` sets the rate, the block size, `prepared` and every voice's `hpG`,
which is 0.005222303865 to the digits given. -/
theorem test_prepare_accepts :
    let t := nextOr State.reset (exec (.prepare 0x473B8000 128) State.reset)
    t.prepared = true ∧ t.sampleRate = 48000 ∧ t.maxFrames = 128 ∧
      ∀ v ∈ t.voices, 5222303864 / 10 ^ 12 < v.filt.hpG ∧ v.filt.hpG < 5222303866 / 10 ^ 12 := by
  decide +kernel

/-- R280 (f): `+0`, `-0`, a negative rate and NaN change nothing. -/
theorem test_prepare_rejects :
    nextOr idle (exec (.prepare 0 9) State.reset) = State.reset ∧
      nextOr idle (exec (.prepare 0x80000000 9) State.reset) = State.reset ∧
      nextOr idle (exec (.prepare 0xC73B8000 9) State.reset) = State.reset ∧
      nextOr idle (exec (.prepare 0x7FC00000 9) State.reset) = State.reset := by decide +kernel

/-- R281's table: `osc1Wave`, `filterCutoff` at both ends, `osc1On`, `lfoTarget`. -/
theorem test_setparam_converts :
    (nextOr idle (exec (.setparam 1 0x40200000) idle)).params.osc1Wave = .sine ∧
      (nextOr idle (exec (.setparam 12 0x3FC00000) idle)).params.filterCutoff = 1 ∧
      (nextOr idle (exec (.setparam 12 0xBE4CCCCD) idle)).params.filterCutoff = 0 ∧
      (nextOr idle (exec (.setparam 0 0x3F000000) idle)).params.osc1On = true ∧
      (nextOr idle (exec (.setparam 24 0x40C00000) idle)).params.lfoTarget = 6 ∧
      (nextOr idle (exec (.setparam 24 0x7F800000) idle)).params.lfoTarget = 7 := by
  decide +kernel

/-- R281's corner cases (d), (e): `-0.5` and `-0.6` to an enum, `0.49999997` to a Boolean. -/
theorem test_setparam_rounds :
    (ExtNum.finite (-1 / 2)).toIndex 4 = 0 ∧ (ExtNum.finite (-6 / 10)).toIndex 4 = 0 ∧
      (ExtNum.finite (24999 / 10000)).toIndex 4 = 2 ∧
      (f32Value 0x3EFFFFFF).map ExtNum.toBool = some false ∧
      (f32Value 0x3F000000).map ExtNum.toBool = some true := by decide +kernel

/-- R283's four examples. -/
theorem test_noteon_steals :
    steal [playing 0 (1 / 10), playing 0 (2 / 10), playing 0 (3 / 10), playing 0 (4 / 10),
        playing 0 (5 / 10), playing 0 (6 / 10)] = 5 ∧
      steal [playing 0 0, released 0 (30 / 100), playing 0 0, released 0 (75 / 100), playing 0 0,
        playing 0 0] = 3 ∧
      steal [playing 0 0, released 0 (2 / 10), released 0 (2 / 10), playing 0 0, playing 0 0,
        playing 0 0] = 1 ∧
      steal [playing 0 1, playing 0 1, playing 0 1, playing 0 1, playing 0 1, playing 0 1] = 0 := by
  decide +kernel

/-- R282's example: after PREPARE, `NOTEON 60` takes voice 0; before it, none. -/
theorem test_noteon_starts :
    ((nextOr idle (exec (.noteon 60 0x7FC00000) idle)).voices.map (fun v => (v.note, v.gateOn))) =
        [(60, true), (0, false), (0, false), (0, false), (0, false), (0, false)] ∧
      (nextOr idle (exec (.noteon 60 0) State.reset)).voices = State.reset.voices := by
  decide +kernel

/-- R284's example: voices 0 and 3 carry note 60, voice 1 note 64. -/
theorem test_noteoff_releases_both :
    ((nextOr idle (exec (.noteoff 60)
        (prepared [playing 60 1, playing 64 1, released 60 2, playing 60 3] 0 (silence std)))).voices.map
          (fun v => (v.gateOn, v.gateOnUptime, v.gateOffUptime))) =
      [(false, 1, 0), (true, 1, 0), (false, 0, 0), (false, 3, 0)] := by decide +kernel

/-- R284 (c): `NOTEOFF 0` matches every voice that never had a note. -/
theorem test_noteoff_zero :
    ((nextOr idle (exec (.noteoff 0) (prepared [released 0 5, released 1 5] 0 (silence std)))).voices.map
      (·.gateOffUptime)) = [0, 5] := by decide +kernel

/-- R285: the remainder of a chunk goes out as rendered, and the cursor wraps; before PREPARE the
frames are zeros. -/
theorem test_process_frames :
    let s := prepared [] 30 (List.replicate 30 0 ++ [1 / 2, -1 / 4])
    ((nextOr idle (exec (.process 2) s)).frames, (nextOr idle (exec (.process 2) s)).cursor) =
        ([⟨0xBE800000, 0xBE800000⟩, ⟨0x3F000000, 0x3F000000⟩], 0) ∧
      (nextOr idle (exec (.process 2) State.reset)).frames = [⟨0, 0⟩, ⟨0, 0⟩] := by decide +kernel

/-- R135 to R137's examples at `dt = 440/48000`, where the waveform's value is rational, and R286's:
a voice sample of 0.5 becomes 0.2027066 in the chunk. -/
theorem test_process_samples :
    sawWave std 0 (11 / 1200) 0 = 0 ∧ sawWave std (11 / 1200) (11 / 1200) 0 = -589 / 600 ∧
      sawWave std (8 / 10) (11 / 1200) (1 / 2) = -9 / 23 ∧ rectWave std 0 (11 / 1200) 0 = 0 ∧
      rectWave std (1 / 2 - 11 / 2400) (11 / 1200) 0 = 75 / 100 ∧ rectWave std (1 / 10) (11 / 1200) 1 = 0 ∧
      triWave std (1 / 8) (1 / 2) = 275 / 1000 ∧
      2027065 / 10 ^ 7 < mixSample std (1 / 2) ∧ mixSample std (1 / 2) < 2027067 / 10 ^ 7 := by decide +kernel

/-! ## Cases that meet the hypotheses of the statements -/

/-- The input stream of `idle` with these words delivered. -/
def withInbox (ws : List Word) : State := idle.setInbox ws

theorem test_hyp_DecodeOfEncodeIsTheCommand :
    Instr.wellFormed (.noteon 127 0xFFFFFFFF) = true ∧ Instr.wellFormed (.noteoff 0) = true := by decide

theorem test_hyp_LegalWordIsItsCommandsEncoding :
    decode 0x0300007F00000000 = .legal (.noteon 127 0) := by decide

theorem test_hyp_StepRunsTheDecodedCommand :
    (withInbox [0x0400003C00000000, 0]).inbox = [0x0400003C00000000, 0] ∧
      decode 0x0400003C00000000 = .legal (.noteoff 60) := by decide

theorem test_hyp_StepWithoutACommandHoldsTheState : idle.inbox = [] := rfl

/-- One case for each clause: an illegal word; the first unmapped key and the last; a NaN; a rate of 0,
of -0, negative, NaN and infinite; an unprepared block; a note no voice has. -/
theorem test_hyp_IllegalAndIdleWordsChangeNothing :
    ((withInbox [0x0000000000000000]).inbox = [0] ∧ decode 0 = .illegal .reservedOpcode) ∧
      (32 < (33 : Half).toNat ∧ 32 < (0xFFFF : Half).toNat) ∧
      (f32Value 0x7FC00000 = none ∧ f32Value 0x7F800001 = none) ∧
      (f32Value 0x00000000 = some (.finite 0) ∧ f32Value 0x80000000 = some (.finite 0) ∧
        f32Value 0xC73B8000 = some (.finite (-48000)) ∧ f32Value 0x7F800000 = some .posInf) ∧
      State.reset.prepared = false ∧
      (∀ v ∈ State.reset.voices, v.note.val ≠ (60 : Half).toNat) := by decide +kernel

/-- 48000 Hz, and the smallest positive binary32. -/
theorem test_hyp_PrepareSetsRateAndHighpass :
    (f32Value 0x473B8000 = some (.finite 48000) ∧ (0 : Scalar) < 48000) ∧
      (f32Value 0x00000001 = some (.finite (1 / 2 ^ 149)) ∧ (0 : Scalar) < 1 / 2 ^ 149) := by
  decide +kernel

/-- A rate in use, and the largest finite binary32. -/
theorem test_hyp_HighpassCoefficientIsAFraction :
    ((0 : Scalar) < 48000 ∧ (48000 : Scalar) < 2 ^ 128) ∧
      ((0 : Scalar) < (2 ^ 24 - 1) * 2 ^ 104 ∧ ((2 ^ 24 - 1) * 2 ^ 104 : Scalar) < 2 ^ 128) := by norm_num

/-- The first key and the last, a finite value and an infinity. -/
theorem test_hyp_SetparamWritesExactlyOneRegister :
    (f32Value 0x3F800000 = some (.finite 1) ∧ paramType (0 : Half).toNat = some .bool) ∧
      (f32Value 0xFF800000 = some .negInf ∧ paramType (32 : Half).toNat = some .unary) := by
  decide +kernel

/-- A key of each type, the first unmapped key, and registers within their types. -/
theorem test_hyp_ParameterSpaceHasThirtyThreeRegisters :
    paramType 33 = none ∧ paramType 32 = some .unary ∧ paramType 0 = some .bool ∧
      paramType 29 = some (.enum 7) ∧ idle.params.Inv :=
  ⟨rfl, rfl, rfl, rfl, zeros_inv⟩

/-- The first note and the last. -/
theorem test_hyp_NoteonStartsTheStolenVoice :
    ((0 : Half).toNat = (0 : Fin 128).val ∧ (127 : Half).toNat = (127 : Fin 128).val) ∧
      idle.prepared = true := by decide

/-- A pool with one released voice, and one with none. -/
theorem test_hyp_StealPrefersTheLongestReleased :
    ([playing 0 9, released 0 0] ≠ [] ∧ ∃ w ∈ [playing 0 9, released 0 0], w.gateOn = false) ∧
      ([playing 0 1, playing 0 2] ≠ [] ∧ ∀ w ∈ [playing 0 1, playing 0 2], w.gateOn = true) := by
  decide +kernel

theorem test_hyp_NoteoffReleasesEveryVoiceOfTheNote :
    (0 : Half).toNat = (0 : Fin 128).val ∧ (127 : Half).toNat = (127 : Fin 128).val := by decide

theorem test_hyp_UnpreparedProcessEmitsSilence : State.reset.prepared = false := rfl

theorem test_hyp_ProcessEmitsExactlyItsFrames :
    (prepared [] 31 (silence std)).prepared = true ∧ (prepared [] 31 (silence std)).cursor < std.chunk ∧
      idle.cursor < std.chunk := by decide +kernel

/-- The last entry alone, everything but the first entry, and no frame at all. -/
theorem test_hyp_ProcessHandsOutTheChunkRemainder :
    ∀ ca ∈ [((31 : Nat), (1 : Half)), (1, 31), (31, 0)],
      (prepared [] ca.1 (silence std)).prepared = true ∧
        (prepared [] ca.1 (silence std)).chunk.length = std.chunk ∧ 0 < (prepared [] ca.1 (silence std)).cursor ∧
        (prepared [] ca.1 (silence std)).cursor < std.chunk ∧
        (prepared [] ca.1 (silence std)).cursor + ca.2.toNat ≤ std.chunk := by decide +kernel

theorem test_hyp_ProcessAtCursorZeroRegeneratesOnce :
    idle.prepared = true ∧ idle.cursor = 0 ∧ 0 < (1 : Half).toNat ∧ (1 : Half).toNat ≤ std.chunk ∧
      0 < (32 : Half).toNat ∧ (32 : Half).toNat ≤ std.chunk := by decide +kernel

/-- Three commands that make the largest count one PROCESS can carry. -/
theorem test_hyp_SplittingProcessChangesNothing :
    (([65534, 0, 1] : List Half).map BitVec.toNat).sum < 65536 ∧
      (withInbox [0x0500FFFE00000000, 0x0500000000000000, 0x0500000100000000, 7]).inbox =
        ([65534, 0, 1] : List Half).map (fun a => encode (.process a)) ++ [7] := by decide

theorem test_hyp_ProcessKeepsRegistersNotesAndGates :
    exec (.process 0) idle = .next idle := rfl

/-- Each clause: a command that is none of the ones it names. -/
theorem test_hyp_EachCommandWritesOnlyItsOwnState :
    (exec (.process 0) idle = .next idle ∧ (∀ k x, Instr.process 0 ≠ .setparam k x) ∧
        (∀ f a, Instr.process 0 ≠ .prepare f a) ∧ (∀ a f, Instr.process 0 ≠ .noteon a f)) ∧
      (exec (.setparam 33 0) idle = .next idle ∧ ∀ a, Instr.setparam 33 0 ≠ .process a) := by
  refine ⟨⟨rfl, ?_, ?_, ?_⟩, rfl, ?_⟩ <;> (intros; exact Instr.noConfusion)

theorem test_hyp_PreparedIsSetOnlyByPrepareAndNeverCleared :
    (exec (.process 0) idle = .next idle ∧ idle.prepared = true) ∧
      (State.reset.prepared = false ∧
        ∃ t, exec (.prepare 0x473B8000 128) State.reset = .next t ∧ t.prepared = true) :=
  ⟨⟨rfl, rfl⟩, rfl, _, rfl, by decide +kernel⟩

/-- A prepared block with a note playing meets the invariant. -/
theorem test_inv :
    (prepared (List.replicate 5 (Voice.reset std) ++ [playing 60 1]) 31 (silence std)).Inv where
  params := zeros_inv
  voices := by
    have hr := Voice.reset_inv std_lawful
    have hp : (playing 60 1).Inv std := { hr with gateOnUptime := zero_le_one }
    intro v hv
    rcases List.mem_append.mp hv with h | h
    · exact (List.eq_of_mem_replicate h) ▸ hr
    · exact (List.mem_singleton.mp h) ▸ hp
  nVoices := rfl
  cursor := by decide
  chunkLength := rfl
  chunk := by
    intro x hx
    have h0 : 0 ≤ clipBound std std.aMaster := clipBound_nonneg std_lawful std_lawful.aMaster
    obtain rfl : x = 0 := List.eq_of_mem_replicate hx
    exact ⟨neg_nonpos.mpr h0, h0⟩
  rate := by intro _; exact (by norm_num : (0 : Scalar) < 48000)

/-- The same block with `PROCESS 2` delivered: one frame of the old chunk, one of a new one. -/
def busy : State :=
  (prepared (List.replicate 5 (Voice.reset std) ++ [playing 60 1]) 31 (silence std)).setInbox [0x0500000200000000]

theorem test_busy_step : ∃ t, step busy = .next t := ⟨_, step_eq busy⟩

/-- A block over the reals: one voice, a chunk of one sample, draws of 0. -/
noncomputable def smallReal : Config ℝ := exactBlock 1 1 0 Params.zeros (fun _ => 0) (fun n => n)

theorem smallReal_lawful : smallReal.Lawful :=
  exactBlock_lawful le_rfl le_rfl 0 zeros_inv
    (fun _ => (⟨by norm_num, by norm_num⟩ : IsBipolar (0 : ℝ))) (fun n => n)

/-- The reset state of such a block. -/
theorem smallReal_inv :
    (⟨Params.zeros, [Voice.reset smallReal], false, 1, 0, 0, [0], [], [], 0, 0⟩ : StateOf ℝ).Inv
      smallReal where
  params := zeros_inv
  voices := fun _ hv => List.mem_singleton.mp hv ▸ Voice.reset_inv smallReal_lawful
  nVoices := rfl
  cursor := Nat.one_pos
  chunkLength := rfl
  chunk := fun _ hx =>
    have h0 := clipBound_nonneg smallReal_lawful smallReal_lawful.aMaster
    List.mem_singleton.mp hx ▸ ⟨neg_nonpos.mpr h0, h0⟩
  rate := fun h => Bool.noConfusion h

/-- The executable block, and a block over the reals. -/
theorem test_hyp_StepKeepsTheInvariant :
    (∃ s t : State, s.Inv ∧ step s = .next t) ∧
      ∃ (c : Config ℝ) (s : StateOf ℝ), c.Lawful ∧ s.Inv c := by
  obtain ⟨t, ht⟩ := test_busy_step
  exact ⟨⟨busy, t, { test_inv with }, ht⟩, smallReal, _, smallReal_lawful, smallReal_inv⟩

theorem test_hyp_ResetMeetsTheInvariant : ∃ c : Config ℝ, c.Lawful := ⟨smallReal, smallReal_lawful⟩

/-- Two states that differ in an unread register, a seed, a held value and the block size. -/
theorem test_hyp_UnreadStateNeverReachesAFrame :
    let s := prepared [playing 60 1] 0 (silence std)
    let t := { prepared [{ playing 60 1 with seed := 7, osc1 := ⟨0, 1⟩ }] 0 (silence std) with
      params := { Params.zeros with masterVolume := 1 }
      maxFrames := 9 }
    s ≠ t ∧ s.AgreeOnRead t ∧ (∃ s', exec (.process 33) s = .next s') ∧
      ∃ t', exec (.process 33) t = .next t' := by
  refine ⟨by decide +kernel, ⟨rfl, ?_, rfl⟩, ⟨_, rfl⟩, _, rfl⟩
  exact List.Forall₂.cons rfl List.Forall₂.nil

theorem test_hyp_EmittedSamplesStayBelowOne : ∃ s t : State, s.Inv ∧ step s = .next t :=
  test_hyp_StepKeepsTheInvariant.1

theorem test_hyp_OscillatorsOffMeansSilence :
    idle.params.osc1On = false ∧ idle.params.osc2On = false ∧
      (∀ v ∈ idle.voices, v.filt.z1 = 0 ∧ v.filt.z2 = 0 ∧ v.filt.prevOut = 0 ∧ v.filt.hpLp = 0) ∧
      (∀ x ∈ idle.chunk, x = 0) := by decide +kernel

theorem test_hyp_FirstChunkOfANoteIsSilent :
    (playing 60 0).gateOn = true ∧ (playing 60 0).gateOnUptime = 0 := by decide +kernel

/-- The rendered voice is whatever VOICE.RENDER leaves: with the gate on, and with it off. -/
theorem test_hyp_RenderAdvancesTheMatchingUptime :
    (∃ w, w = (voiceRender std idle.params 48000 (playing 60 0) 0).2.1 ∧ (playing 60 0).gateOn = true) ∧
      (∃ w, w = (voiceRender std idle.params 48000 (released 60 0) 0).2.1 ∧
        (released 60 0).gateOn = false) := ⟨⟨_, rfl, rfl⟩, _, rfl, rfl⟩

/-- Every hypothesis gives a name to a value, so any registers, rate, voice and draws meet them; a
switched-off oscillator 1 and a switched-on oscillator 2 meet the two cases. -/
theorem test_hyp_RenderTakesItsSnapshotFirst :
    idle.params.osc1On = false ∧ { idle.params with osc2On := true, filterOn := true }.osc2On = true ∧
      (∃ v1 : Voice Scalar, v1 = { playing 60 0 with clickGain := clickGainOf std true 0 }) ∧
      ∃ r : List Scalar × OscState Scalar × Nat, r = (List.replicate 32 0, ⟨0, 0⟩, 0) :=
  ⟨rfl, rfl, ⟨_, rfl⟩, _, rfl⟩

/-- One envelope for each clause, at the clause's boundary: an attack of positive length and one of 0, a time
inside each segment and at its start, and the end of a release. -/
theorem test_hyp_EnvelopeSegmentsMeetTheirEnds :
    (∃ q : EgInput Scalar, 0 ≤ q.decay ∧ q.on = true ∧ 0 < q.attack ∧ 0 < q.decay ∧ 1 / 2 < q.attack ∧
        q.attack ≤ 1 ∧ 1 < q.attack + q.decay ∧ q.attack + q.decay ≤ 2 ∧ 0 < q.release ∧
        1 / 2 < q.release ∧ q.release ≤ 1) ∧
      (∃ q : EgInput Scalar, 0 ≤ q.decay ∧ q.on = true ∧ q.attack = 0 ∧ 0 < q.decay) ∧
      (∃ q : EgInput Scalar, 0 ≤ q.decay ∧ q.on = true ∧ q.attack = 0 ∧ q.attack + q.decay ≤ 0 ∧
        q.release ≤ 0) ∧
      (∃ q : EgInput Scalar, 0 ≤ q.decay ∧ q.on = false) ∧ (1 / 2 : Scalar) ≠ 0 := by
  refine ⟨⟨⟨true, 1, 1, 0, 1⟩, ?_⟩, ⟨⟨true, 0, 1, 0, 0⟩, ?_⟩, ⟨⟨true, 0, 0, 0, 0⟩, ?_⟩,
    ⟨⟨false, 0, 0, 0, 0⟩, ?_⟩, ?_⟩ <;> norm_num

theorem test_hyp_ClickGainIsAStaircase :
    (2 / 1000 : Scalar) ≤ 2 / 1000 ∧ (0 : Scalar) < 2 / 1000 := by norm_num

/-- A sum just below 1, and a sum of exactly 1. -/
theorem test_hyp_LfoAdvancesModuloOne :
    ((0 : Scalar) ≤ 0 ∧ (0 : Scalar) < 1 ∧ (0 : Scalar) ≤ 999 / 1000 ∧ (0 : Scalar) + 999 / 1000 < 1) ∧
      ((0 : Scalar) ≤ 1 / 2 ∧ (1 / 2 : Scalar) < 1 ∧ (1 : Scalar) ≤ 1 / 2 + 1 / 2) := by norm_num

theorem test_hyp_LfoShapesAreBipolar :
    ∃ l : LfoState Scalar, 0 ≤ l.phase ∧ l.phase < 1 ∧ -1 ≤ l.sh ∧ l.sh ≤ 1 :=
  ⟨⟨0, -1⟩, by norm_num⟩

/-- Both sources routed to the target, and neither; bases at both ends; a voice and registers within their
types. -/
theorem test_hyp_RouterRangesAndIdentity :
    ((1 : Scalar) = if (true = true ∧ std.targetMap idle.params.lfoTarget = .osc1Pitch) then 1 else 0) ∧
      ((0 : Scalar) = if idle.params.modOn = true ∧ std.targetMap idle.params.modTarget = .osc1Pitch
        then 1 else 0) ∧
      ((0 : Scalar) ≤ 0 ∧ (0 : Scalar) ≤ 1 ∧ (1 : Scalar) ≤ 1) ∧ idle.params.Inv ∧
      (Voice.reset std).Inv std :=
  ⟨by decide +kernel, by decide +kernel, by norm_num, test_inv.params, Voice.reset_inv std_lawful⟩

/-- The frequency is the rule's own expression, so any operands have one: here the lowest note, an octave
down, detuned, with vibrato. -/
theorem test_hyp_NoteFrequencyIsEqualTempered :
    ∃ freq : ℝ, freq = 440 * (2 : ℝ) ^ ((((0 : Fin 128).val : ℝ) + 12 * ((-1 : Int) : ℝ) +
      ((1 / 4 : Scalar) : ℝ) + ((-3 : Scalar) : ℝ) - 69) / 12) := ⟨_, rfl⟩

/-- The ends of the register's range. -/
theorem test_hyp_OctaveRegisterSelectsTheShift :
    ((0 : Scalar) ≤ 0 ∧ (0 : Scalar) ≤ 1) ∧ ((0 : Scalar) ≤ 1 ∧ (1 : Scalar) ≤ 1) := by norm_num

/-- The phase of sample `n` from phase 1/2 with an increment of 1/4: the second sample wraps, and of four
it is the only one to. -/
def rampPhase (n : Nat) : Scalar := Int.fract (1 / 2 + (n : Scalar) * (1 / 4))

/-- A saw whose second sample wraps, and a noise that never wraps. -/
theorem test_hyp_OscillatorSamplesItsPhaseRamp :
    (∃ (q : OscInput Scalar) (o : OscState Scalar) (ph : Nat → Scalar) (k : Nat → Nat), q.wave ≠ .noise ∧
        0 ≤ q.dt ∧ 0 ≤ o.phase ∧ o.phase < 1 ∧
        (∀ n, ph n = Int.fract (o.phase + (n : Scalar) * q.dt)) ∧
        (∀ n, k n = (List.range n).countP (fun j => decide (1 ≤ ph j + q.dt))) ∧
        1 ≤ ph 1 + q.dt ∧ k 4 = k 1 + 1) ∧
      (∃ (q : OscInput Scalar) (o : OscState Scalar) (ph : Nat → Scalar), q.wave = .noise ∧ 0 ≤ q.dt ∧
        0 ≤ o.phase ∧ o.phase < 1 ∧ (∀ n, ph n = Int.fract (o.phase + (n : Scalar) * q.dt)) ∧
        (List.range 4).countP (fun j => decide (1 ≤ ph j + q.dt)) = 0) :=
  ⟨⟨⟨.saw, 1 / 4, 0, 1⟩, ⟨1 / 2, 0⟩, rampPhase,
      fun n => (List.range n).countP (fun j => decide (1 ≤ rampPhase j + 1 / 4)),
      by decide, by norm_num, by norm_num, by norm_num, fun _ => rfl, fun _ => rfl, by decide +kernel,
      by decide +kernel⟩,
    ⟨.noise, 1 / 8, 0, 1⟩, ⟨0, 0⟩, fun n => Int.fract (0 + (n : Scalar) * (1 / 8)), rfl, by norm_num,
      le_rfl, by norm_num, fun _ => rfl, by decide +kernel⟩

/-- Phase 0 with the narrowest breakpoints' `pw`, and a late phase with the widest; the breakpoints are the
rules' own expressions. -/
theorem test_hyp_WaveformsAreBounded :
    ((0 : Scalar) ≤ 0 ∧ (0 : Scalar) < 1 ∧ (0 : Scalar) < 11 / 1200 ∧ (0 : Scalar) ≤ 0 ∧ (0 : Scalar) ≤ 1 ∧
        (0 : Scalar) = (1 - (1 - 0) ^ 2) * (95 / 100) ∧ (1 / 2 : Scalar) = 1 / 2 - 0 * (4 / 10)) ∧
      ((0 : Scalar) ≤ 99 / 100 ∧ (99 / 100 : Scalar) < 1 ∧ (0 : Scalar) < 2 ∧ (0 : Scalar) ≤ 1 ∧
        (1 : Scalar) ≤ 1 ∧ (95 / 100 : Scalar) = (1 - (1 - 1) ^ 2) * (95 / 100) ∧
        (1 / 10 : Scalar) = 1 / 2 - 1 * (4 / 10)) := by norm_num

/-- Every hypothesis gives a name to a value: any filter state, input and coefficients meet them, in the
executable block and over the reals. -/
theorem test_hyp_FilterOutputIsBounded :
    (∀ (q : FilterInput Scalar) (f : FilterState Scalar) (x : Scalar), ∃ fs hpLp xin w y : Scalar,
        fs = softClip std f.prevOut 2 ∧ hpLp = std.num.store (f.hpLp + f.hpG * (fs - f.hpLp)) ∧
        xin = x - (fs - hpLp) * q.fb ∧
        w = std.num.store (xin - q.coefs.a1 * f.z1 - q.coefs.a2 * f.z2) ∧
        y = std.num.store
          (softClip std (q.coefs.b0 * w + q.coefs.b1 * f.z1 + q.coefs.b2 * f.z2) 1)) ∧
      ∃ c : Config ℝ, c = exactBlock 1 1 0 Params.zeros (fun _ => 0) (fun n => n) :=
  ⟨fun _ _ _ => ⟨_, _, _, _, _, rfl, rfl, rfl, rfl, rfl⟩, _, rfl⟩

/-- Angle 0 and half a turn, the smallest Q and the largest. -/
theorem test_hyp_BiquadHasUnitGainAtZero :
    ((0 : Scalar) ≤ 0 ∧ (0 : Scalar) ≤ 1 / 2 ∧ (0 : Scalar) < 1 / 2) ∧
      ((0 : Scalar) ≤ 1 / 2 ∧ (1 / 2 : Scalar) ≤ 1 / 2 ∧ (0 : Scalar) < 83 / 10) ∧
      ∃ cs sn a0 : Scalar, cs = std.num.cos (2 * std.num.pi * (1 / 2)) ∧
        sn = std.num.sin (2 * std.num.pi * (1 / 2)) ∧ a0 = 1 + sn / (2 * (83 / 10)) :=
  ⟨by norm_num, by norm_num, _, _, _, rfl, rfl, rfl⟩

/-- The ends of the registers' ranges; the pitch, the cutoff and the Q are the rules' own expressions, so any
operands have them; and a quadratic has a root, so the last clause's hypothesis can be met. -/
theorem test_hyp_FilterPolesLieInsideTheUnitCircle :
    ((0 : Scalar) ≤ 0 ∧ (0 : Scalar) ≤ 1 ∧ (1 : Scalar) ≤ 1 ∧ (0 : Scalar) < 48000) ∧
      (∃ pitch nc q : Scalar, pitch = (60 - 6) + (124 - (60 - 6)) * (1 - (1 - 1 / 2) ^ 2) ∧
        nc = max (1 / 10000) (min (440 * std.num.pow2 ((pitch - 69) / 12) / 48000) (49 / 100)) ∧
        q = 1 / 2 + 1 / 2 * (4 / 10) * (39 / 2)) ∧
      ∀ a1 a2 : Scalar, ∃ z : ℂ, z ^ 2 + (a1 : ℂ) * z + (a2 : ℂ) = 0 := by
  refine ⟨by norm_num, ⟨_, _, _, rfl, rfl, rfl⟩, fun a1 a2 => ?_⟩
  obtain ⟨d, hd⟩ := IsAlgClosed.exists_pow_nat_eq ((a1 : ℂ) ^ 2 - 4 * a2) (n := 2) (by norm_num)
  exact ⟨(-(a1 : ℂ) + d) / 2, by linear_combination (1 / 4 : ℂ) * hd⟩

/-- Each branch of the correction: before, between and after. -/
theorem test_hyp_PolyBlepStaysWithinOne :
    ∀ t ∈ [(0 : Scalar), 1 / 2, 999 / 1000], 0 ≤ t ∧ t < 1 ∧ (0 : Scalar) < 1 / 100 := by
  decide +kernel

/-- The ends of the domain, and an inner point for the last clause. -/
theorem test_hyp_SigmoidShapesTheUnitInterval :
    ((-1 : Scalar) ≤ -1 ∧ (-1 : Scalar) ≤ 1 ∧ (0 : Scalar) ≤ 9 / 10 ∧ (9 / 10 : Scalar) ≤ 9 / 10 ∧
        (-1 : Scalar) < 1) ∧
      ((0 : Scalar) < 9 / 10 ∧ (0 : Scalar) < 1 / 2 ∧ (1 / 2 : Scalar) < 1) := by norm_num

/-- Between the clamp points, at one, and beyond it. -/
theorem test_hyp_SoftClipIsAnOddMonotoneLimiter :
    ((0 : Scalar) < 1 ∧ (0 : Scalar) ≤ 1) ∧ |(1 / 2 : Scalar)| ≤ 1 * clipLimit std ∧
      1 * clipLimit std ≤ clipLimit std ∧ 1 * clipLimit std ≤ 10 := by
  refine ⟨by norm_num, ?_, by rw [one_mul], ?_⟩
  · rw [abs_of_pos (by norm_num)]
    have h : (1 / 2 : Scalar) ≤ clipLimit std := by decide +kernel
    linarith
  · have h : clipLimit std ≤ 10 := by decide +kernel
    linarith

theorem test_hyp_EaseRunsFromZeroToOne :
    ((0 : Scalar) ≤ 1 ∧ (1 : Scalar) ≤ 1) ∧
      ∃ c : Config ℝ, c = exactBlock 1 1 0 Params.zeros (fun _ => 0) (fun n => n) :=
  ⟨by norm_num, _, rfl⟩

/-- The smallest subnormal, the largest finite pattern, and `+0`; and a pattern of each kind: a NaN, an
infinity, a subnormal, the least and the greatest normal exponent. -/
theorem test_hyp_ToF32InvertsTheOperandValue :
    (f32Value 0x80000001 = some (.finite (-1 / 2 ^ 149)) ∧
      f32Value 0x7F7FFFFF = some (.finite ((2 ^ 24 - 1) * 2 ^ 104)) ∧
      f32Value 0 = some (.finite 0) ∧ (0 : F32) ≠ 0x80000000) ∧
    [(0x7FC00000 : F32), 0xFF800000, 0x80000001, 0x00800000, 0x7F7FFFFF].map
        (fun b => ((b.extractLsb' 23 8).toNat, (b.extractLsb' 0 23).toNat, b.getLsbD 31)) =
      [(255, 0x400000, false), (255, 0, true), (0, 1, true), (1, 0, false), (254, 0x7FFFFF, false)] := by
  decide +kernel

/-- A number between two patterns, and its nearest; and a tie between two neighbours, 1 and the next. -/
theorem test_hyp_ToF32IsNearest :
    (f32Value (toF32 (1 / 3 : Scalar)) = some (.finite (11184811 / 33554432)) ∧
        f32Value 0x3EAAAAAA = some (.finite (5592405 / 16777216))) ∧
      (f32Value (toF32 (1 + 1 / 2 ^ 24 : Scalar)) = some (.finite 1) ∧
        f32Value 0x3F800001 = some (.finite (1 + 1 / 2 ^ 23))) := by decide +kernel

theorem test_hyp_SquareRootIsBracketed : (0 : Scalar) ≤ 0 ∧ (0 : Scalar) ≤ 2 := by norm_num

end Sys2Proof.Tests
end

section
/-! SUPPORT. The decoder against the opcode table (30_encoding.md R81, R83, R88). -/

namespace Sys2Proof

/-! ### A masked word, field by field -/

/-- The four fields of R81 make up the whole word. -/
theorem word_eq_iff_fields (v w : Word) :
    v = w ↔ rsvField v = rsvField w ∧ opField v = opField w ∧ aField v = aField w ∧
      fField v = fField w := by
  simp only [← BitVec.toNat_inj, rsvField, opField, aField, fField, BitVec.extractLsb'_toNat,
    Nat.shiftRight_eq_div_pow]
  omega

/-- A mask acts on each field of R81 alone. -/
theorem and_eq_iff_fields (w mask value : Word) :
    w &&& mask = value ↔
      rsvField w &&& rsvField mask = rsvField value ∧ opField w &&& opField mask = opField value ∧
        aField w &&& aField mask = aField value ∧ fField w &&& fField mask = fField value := by
  rw [word_eq_iff_fields]
  simp only [rsvField, opField, aField, fField, BitVec.extractLsb'_and]

/-- A note number is in range iff its bits 15:7 are zero (R83). -/
theorem and_highBits_eq_zero_iff (a : Half) : a &&& 0xFF80 = 0 ↔ noteInRange a = true := by
  have low : a &&& 0x7F = a ↔ a.toNat ≤ 127 := by
    rw [← BitVec.toNat_inj, BitVec.toNat_and]
    change a.toNat &&& 2 ^ 7 - 1 = a.toNat ↔ _
    rw [Nat.and_two_pow_sub_one_eq_mod]
    omega
  have parts : a = (a &&& 0x7F) ||| (a &&& 0xFF80) := by
    rw [← BitVec.and_or_distrib_left]
    exact (BitVec.and_allOnes (x := a)).symm
  rw [noteInRange, decide_eq_true_iff, ← low]
  constructor
  · intro high
    rw [high] at parts
    simpa using parts.symm
  · intro h
    rw [← h, BitVec.and_assoc]
    exact BitVec.and_zero

/-! ### The rows of the opcode table as conditions on the fields -/

/-- What every row says: `rsv` is 0, `op` is the row's, and the masked bits of the operands are 0. -/
theorem and_eq_row_iff {mask value : Word} {op : BitVec 8} {ma : Half} {mf : F32}
    (hmask : rsvField mask = BitVec.allOnes 8 ∧ opField mask = BitVec.allOnes 8 ∧
      aField mask = ma ∧ fField mask = mf)
    (hvalue : rsvField value = 0 ∧ opField value = op ∧ aField value = 0 ∧ fField value = 0)
    (w : Word) :
    w &&& mask = value ↔
      rsvField w = 0 ∧ opField w = op ∧ aField w &&& ma = 0 ∧ fField w &&& mf = 0 := by
  obtain ⟨hmr, hmo, hma, hmf⟩ := hmask
  obtain ⟨hvr, hvo, hva, hvf⟩ := hvalue
  rw [and_eq_iff_fields, hmr, hmo, hma, hmf, hvr, hvo, hva, hvf, BitVec.and_allOnes,
    BitVec.and_allOnes]

theorem prepareRow_iff (w : Word) (f : F32) (a : Half) :
    w &&& (Instr.prepare f a).tableMask = (Instr.prepare f a).tableMatch ↔
      rsvField w = 0 ∧ opField w = 0x01 := by
  change w &&& 0xFFFF000000000000 = 0x0100000000000000 ↔ _
  rw [and_eq_row_iff (op := 0x01) (ma := 0) (mf := 0) (by decide) (by decide)]
  simp

theorem setparamRow_iff (w : Word) (a : Half) (f : F32) :
    w &&& (Instr.setparam a f).tableMask = (Instr.setparam a f).tableMatch ↔
      rsvField w = 0 ∧ opField w = 0x02 := by
  change w &&& 0xFFFF000000000000 = 0x0200000000000000 ↔ _
  rw [and_eq_row_iff (op := 0x02) (ma := 0) (mf := 0) (by decide) (by decide)]
  simp

theorem noteonRow_iff (w : Word) (a : Half) (f : F32) :
    w &&& (Instr.noteon a f).tableMask = (Instr.noteon a f).tableMatch ↔
      rsvField w = 0 ∧ opField w = 0x03 ∧ noteInRange (aField w) = true := by
  change w &&& 0xFFFFFF8000000000 = 0x0300000000000000 ↔ _
  rw [and_eq_row_iff (op := 0x03) (ma := 0xFF80) (mf := 0) (by decide) (by decide),
    and_highBits_eq_zero_iff]
  simp

theorem noteoffRow_iff (w : Word) (a : Half) :
    w &&& (Instr.noteoff a).tableMask = (Instr.noteoff a).tableMatch ↔
      rsvField w = 0 ∧ opField w = 0x04 ∧ noteInRange (aField w) = true ∧ fField w = 0 := by
  change w &&& 0xFFFFFF80FFFFFFFF = 0x0400000000000000 ↔ _
  rw [and_eq_row_iff (op := 0x04) (ma := 0xFF80) (mf := BitVec.allOnes 32) (by decide) (by decide),
    and_highBits_eq_zero_iff, BitVec.and_allOnes]

theorem processRow_iff (w : Word) (a : Half) :
    w &&& (Instr.process a).tableMask = (Instr.process a).tableMatch ↔
      rsvField w = 0 ∧ opField w = 0x05 ∧ fField w = 0 := by
  change w &&& 0xFFFF0000FFFFFFFF = 0x0500000000000000 ↔ _
  rw [and_eq_row_iff (op := 0x05) (ma := 0) (mf := BitVec.allOnes 32) (by decide) (by decide),
    BitVec.and_allOnes]
  simp

/-! ### What the decoder answers -/

/-- The command of `i`'s row with its operands read from the fields of `w` (R81, R83). -/
def Instr.withOperandsOf (w : Word) : Instr → Instr
  | .prepare _ _ => .prepare (fField w) (aField w)
  | .setparam _ _ => .setparam (aField w) (fField w)
  | .noteon _ _ => .noteon (aField w) (fField w)
  | .noteoff _ => .noteoff (aField w)
  | .process _ => .process (aField w)

/-- A command the decoder gives has its operands in the word's fields, and its row selects the word. -/
theorem row_of_decode_eq_legal {w : Word} {i : Instr} (h : decode w = .legal i) :
    i.withOperandsOf w = i ∧ w &&& i.tableMask = i.tableMatch := by
  unfold decode decodeNoteoff at h
  split_ifs at h with hrsv h1 h2 h3 hn h4 hn hf h5 hf <;> cases h <;> refine ⟨rfl, ?_⟩
  · exact (prepareRow_iff ..).mpr ⟨not_not.mp hrsv, h1⟩
  · exact (setparamRow_iff ..).mpr ⟨not_not.mp hrsv, h2⟩
  · exact (noteonRow_iff ..).mpr ⟨not_not.mp hrsv, h3, hn⟩
  · exact (noteoffRow_iff ..).mpr ⟨not_not.mp hrsv, h4, hn, hf⟩
  · exact (processRow_iff ..).mpr ⟨not_not.mp hrsv, h5, hf⟩

/-- A word that a row selects decodes to the row's command. -/
theorem decode_of_row {w : Word} {i : Instr} (h : w &&& i.tableMask = i.tableMatch) :
    decode w = .legal (i.withOperandsOf w) := by
  cases i with
  | prepare f a =>
    obtain ⟨hrsv, hop⟩ := (prepareRow_iff ..).mp h
    simp [decode, hrsv, hop, Instr.withOperandsOf]
  | setparam a f =>
    obtain ⟨hrsv, hop⟩ := (setparamRow_iff ..).mp h
    simp [decode, hrsv, hop, Instr.withOperandsOf]
  | noteon a f =>
    obtain ⟨hrsv, hop, hnote⟩ := (noteonRow_iff ..).mp h
    simp [decode, hrsv, hop, hnote, Instr.withOperandsOf]
  | noteoff a =>
    obtain ⟨hrsv, hop, hnote, hf⟩ := (noteoffRow_iff ..).mp h
    simp [decode, decodeNoteoff, hrsv, hop, hnote, hf, Instr.withOperandsOf]
  | process a =>
    obtain ⟨hrsv, hop, hf⟩ := (processRow_iff ..).mp h
    simp [decode, hrsv, hop, hf, Instr.withOperandsOf]

/-- A word is a row's command iff the row selects it, with the operands in the word's fields (R88). -/
theorem decode_eq_legal_iff (w : Word) (i : Instr) :
    decode w = .legal i ↔ i.withOperandsOf w = i ∧ w &&& i.tableMask = i.tableMatch :=
  ⟨row_of_decode_eq_legal, fun ⟨operands, row⟩ => operands ▸ decode_of_row row⟩

/-- A word is illegal iff no row selects it (R88). -/
theorem exists_decode_eq_illegal_iff (w : Word) :
    (∃ why, decode w = .illegal why) ↔ ∀ i : Instr, w &&& i.tableMask ≠ i.tableMatch := by
  constructor
  · rintro ⟨why, hw⟩ i row
    cases hw.symm.trans (decode_of_row row)
  · intro noRow
    cases hd : decode w with
    | legal i =>
      obtain ⟨-, row⟩ := row_of_decode_eq_legal hd
      exact absurd row (noRow i)
    | illegal why => exact ⟨why, rfl⟩

/-- Settles O4: each clause is a row's equivalence, and a word that all five rows reject is illegal. -/
theorem tableMasksSelectTheCommand : Obligations.TableMasksSelectTheCommand := by
  intro w
  refine ⟨(decode_eq_legal_iff w (.prepare (fField w) (aField w))).trans (and_iff_right rfl),
    (decode_eq_legal_iff w (.setparam (aField w) (fField w))).trans (and_iff_right rfl),
    (decode_eq_legal_iff w (.noteon (aField w) (fField w))).trans (and_iff_right rfl),
    (decode_eq_legal_iff w (.noteoff (aField w))).trans (and_iff_right rfl),
    (decode_eq_legal_iff w (.process (aField w))).trans (and_iff_right rfl), ?_⟩
  rw [exists_decode_eq_illegal_iff]
  constructor
  · intro noRow
    exact ⟨noRow (.prepare 0 0), noRow (.setparam 0 0), noRow (.noteon 0 0), noRow (.noteoff 0),
      noRow (.process 0)⟩
  · rintro ⟨hprepare, hsetparam, hnoteon, hnoteoff, hprocess⟩ i
    cases i with
    | prepare => exact hprepare
    | setparam => exact hsetparam
    | noteon => exact hnoteon
    | noteoff => exact hnoteoff
    | process => exact hprocess

end Sys2Proof
end

section
/-! SUPPORT. The words that change nothing (30_encoding.md R84). -/

namespace Sys2Proof.Machine

/-! ### Words that leave the state alone, over any configuration -/

section
variable {α : Type} [Field α] [LinearOrder α] [IsStrictOrderedRing α] [FloorRing α]

/-- SETPARAM to an unmapped key changes nothing (20_memory.md R65). -/
theorem setparamCommand_unmapped {key : Half} (h : 32 < key.toNat) (value : F32) (s : StateOf α) :
    setparamCommand key value s = s := by
  obtain ⟨x, -, h1⟩ | ⟨-, h1⟩ := setparamCommand_cases key value s
  · rw [h1, Params.write_unmapped s.params h]
    rfl
  · exact h1

/-- SETPARAM with a NaN changes nothing. -/
theorem setparamCommand_nan {value : F32} (h : f32Value value = none) (key : Half) (s : StateOf α) :
    setparamCommand key value s = s := by
  obtain ⟨x, hx, -⟩ | ⟨-, h1⟩ := setparamCommand_cases key value s
  · cases h.symm.trans hx
  · exact h1

/-- NOTEOFF of a note that no voice has changes nothing. -/
theorem noteoffCommand_unmatched {a : Half} {s : StateOf α}
    (h : ∀ v ∈ s.voices, v.note.val ≠ a.toNat) : noteoffCommand a s = s := by
  obtain ⟨n, hn, h1⟩ | ⟨-, h1⟩ := noteoffCommand_cases a s
  · have kept : releaseNote n s.voices = s.voices := by
      refine (List.map_congr_left fun v hv => if_neg ?_).trans (List.map_id _)
      rintro rfl
      exact h v hv (noteOperand_val hn)
    rw [h1, kept]
    rfl
  · exact h1

variable (c : Config α)

/-- PREPARE with a rate that is not finite and positive changes nothing. -/
theorem prepareCommand_rejected {f : F32} (h : ∀ r : Rat, f32Value f = some (.finite r) → r ≤ 0)
    (a : Half) (s : StateOf α) : prepareCommand c f a s = s := by
  obtain ⟨r, hr, -⟩ | ⟨-, h1⟩ := prepareCommand_cases c f a s
  · obtain ⟨hf, hpos⟩ := acceptedRate_eq_some.mp hr
    exact absurd (h r hf) (not_le.mpr hpos)
  · exact h1

/-- NOTEON before PREPARE changes nothing. -/
theorem noteonCommand_unprepared {s : StateOf α} (h : s.prepared = false) (a : Half) :
    noteonCommand c a s = s := by
  obtain ⟨n, -, hp, -⟩ | ⟨-, h1⟩ := noteonCommand_cases c a s
  · cases h.symm.trans hp
  · exact h1

/-- PROCESS of no frames changes nothing, prepared or not. -/
theorem processCommand_zero (s : StateOf α) : processCommand c 0 s = s := by
  obtain ⟨-, h1⟩ | ⟨-, h1⟩ := processCommand_cases c 0 s <;> exact h1

/-- An illegal word is consumed, and that is all. -/
theorem blockStep_illegal {s : StateOf α} {w : Word} {ws : List Word} {why : Illegal}
    (hs : s.inbox = w :: ws) (hd : decode w = .illegal why) : blockStep c s = s.setInbox ws := by
  obtain ⟨hnil, -⟩ | ⟨w', ws', hcons, hcase⟩ := blockStep_cases c s
  · cases hs.symm.trans hnil
  · cases hs.symm.trans hcons
    obtain ⟨i, hi, -⟩ | ⟨-, -, h1⟩ := hcase
    · cases hd.symm.trans hi
    · exact h1

end

/-! ### The executable block -/

/-- A command without effect answers the state itself. -/
theorem exec_eq_self {i : Instr} {s : State} (h : command std i s.toStateOf = s.toStateOf) :
    exec i s = .next s := by
  rw [exec_eq, h]

/-- Settles O8: the illegal word by the step's inversion lemma, each no-op by its command's. -/
theorem illegalAndIdleWordsChangeNothing : Obligations.IllegalAndIdleWordsChangeNothing := by
  refine ⟨fun s w ws why hs hd => ?_, fun key value s h => exec_eq_self ?_,
    fun key value s h => exec_eq_self ?_, fun f a s h => exec_eq_self ?_,
    fun n velocity s h => exec_eq_self ?_, fun n s h => exec_eq_self ?_, fun s => exec_eq_self ?_⟩
  · rw [step_eq, blockStep_illegal std hs hd]
    rfl
  · exact setparamCommand_unmapped h value _
  · exact setparamCommand_nan h key _
  · exact prepareCommand_rejected std h a _
  · exact noteonCommand_unprepared std h n
  · exact noteoffCommand_unmatched h
  · exact processCommand_zero std _

end Sys2Proof.Machine
end

section
/-! SUPPORT. Rounding to the nearest integer and the sigmoid shaper (40_numeric_primitives.md R103, R107). -/

namespace Sys2Proof.Machine

/-! ### Rounding half up -/

section
variable {α : Type} [Field α] [LinearOrder α] [IsStrictOrderedRing α] [FloorRing α]

/-- The integer a number rounds to is the one it is at most a half below and less than a half above. -/
theorem roundHalfUp_eq_iff {x : α} {n : Int} :
    roundHalfUp x = n ↔ (n : α) ≤ x + 1 / 2 ∧ x - 1 / 2 < n := by
  have above : x + 1 / 2 < n + 1 ↔ x - 1 / 2 < n := by constructor <;> intro h <;> linarith
  rw [roundHalfUp_eq, Int.floor_eq_iff, above]

end

/-- Settles O50: the bounds and each example are the characterisation of the rounded value. -/
theorem roundHalfUpIsNearest : Obligations.RoundHalfUpIsNearest := by
  intro x
  obtain ⟨upper, lower⟩ := (roundHalfUp_eq_iff (x := x)).mp rfl
  refine ⟨roundHalfUp_eq x, lower, upper, ?_, ?_, ?_, ?_⟩ <;> rw [roundHalfUp_eq_iff] <;> norm_num

/-! ### The sigmoid shaper -/

section
variable {α : Type} [Field α] [LinearOrder α] [IsStrictOrderedRing α] {x y k : α}

/-- The shaper with the factor `1 - k` taken out of its numerator. -/
theorem sigmoid_eq (x k : α) : sigmoid x k = (1 - k) * x / (k - 2 * k * |x| + 1) := by
  rw [sigmoid, magnitude_eq_abs]
  ring

theorem sigmoid_neg (x k : α) : sigmoid (-x) k = -sigmoid x k := by
  rw [sigmoid_eq, sigmoid_eq, abs_neg, mul_neg, neg_div]

theorem sigmoid_zero (k : α) : sigmoid 0 k = 0 := by simp [sigmoid_eq]

theorem sigmoid_one (hk : k < 1) : sigmoid 1 k = 1 := by
  have hden : k - 2 * k * |(1 : α)| + 1 = 1 - k := by rw [abs_one]; ring
  rw [sigmoid_eq, hden, mul_one, div_self (sub_pos.mpr hk).ne']

theorem sigmoid_curvature_zero (x : α) : sigmoid x 0 = x := by simp [sigmoid_eq]

/-- The denominator is least at the ends of the domain. -/
theorem one_sub_le_sigmoid_den (hx : |x| ≤ 1) (hk : 0 ≤ k) : 1 - k ≤ k - 2 * k * |x| + 1 := by
  have := mul_le_of_le_one_right hk hx
  linarith

theorem sigmoid_den_pos (hx : |x| ≤ 1) (hk0 : 0 ≤ k) (hk1 : k < 1) : 0 < k - 2 * k * |x| + 1 :=
  (sub_pos.mpr hk1).trans_le (one_sub_le_sigmoid_den hx hk0)

/-- What the cross terms of a comparison of two values cannot exceed: they cancel when the signs agree. -/
theorem mul_abs_sub_mul_abs_le (hx : |x| ≤ 1) (hy : |y| ≤ 1) (hxy : x ≤ y) :
    y * |x| - x * |y| ≤ y - x := by
  rcases le_total 0 x with hx0 | hx0
  · rw [abs_of_nonneg hx0, abs_of_nonneg (hx0.trans hxy)]
    linarith [mul_comm x y]
  rcases le_total 0 y with hy0 | hy0
  · have hyx := mul_le_of_le_one_right hy0 hx
    have hxy := mul_le_of_le_one_right (neg_nonneg.mpr hx0) hy
    linarith
  · rw [abs_of_nonpos hx0, abs_of_nonpos hy0]
    linarith [mul_comm x y]

/-- The shaper is strictly increasing on the domain: the cross-multiplied difference is
`(1 + k) (y - x) - 2 k (y |x| - x |y|)`, at least `(1 - k) (y - x)`. -/
theorem sigmoid_lt_sigmoid (hx : |x| ≤ 1) (hy : |y| ≤ 1) (hk0 : 0 ≤ k) (hk1 : k < 1) (hxy : x < y) :
    sigmoid x k < sigmoid y k := by
  have hk : 0 < 1 - k := sub_pos.mpr hk1
  have cross : x * (k - 2 * k * |y| + 1) < y * (k - 2 * k * |x| + 1) := by
    have h1 := mul_le_mul_of_nonneg_left (mul_abs_sub_mul_abs_le hx hy hxy.le) hk0
    have h2 := mul_pos hk (sub_pos.mpr hxy)
    linarith
  rw [sigmoid_eq, sigmoid_eq, div_lt_div_iff₀ (sigmoid_den_pos hx hk0 hk1) (sigmoid_den_pos hy hk0 hk1),
    mul_assoc (1 - k), mul_assoc (1 - k)]
  exact mul_lt_mul_of_pos_left cross hk

/-- Inside the domain the denominator exceeds `1 - k`, so a positive curvature bends the value down. -/
theorem sigmoid_lt_self (hk0 : 0 < k) (hk1 : k < 1) (hx0 : 0 < x) (hx1 : x < 1) : sigmoid x k < x := by
  have hx : |x| ≤ 1 := (abs_of_pos hx0).trans_le hx1.le
  have hden : 1 - k < k - 2 * k * |x| + 1 := by
    rw [abs_of_pos hx0]
    linarith [mul_lt_of_lt_one_right hk0 hx1]
  rw [sigmoid_eq, div_lt_iff₀ (sigmoid_den_pos hx hk0.le hk1), mul_comm]
  exact mul_lt_mul_of_pos_left hden hx0

end

/-- The executable block's shaper is the spec's (00_scope.md R4, D14). -/
theorem std_sigmoid : std.sigmoid = sigmoid := rfl

/-- Settles O52: each property by its lemma, at a curvature below 1. -/
theorem sigmoidShapesTheUnitInterval : Obligations.SigmoidShapesTheUnitInterval := by
  intro x k hx0 hx1 hk0 hk1
  have hx : |x| ≤ 1 := abs_le.mpr ⟨hx0, hx1⟩
  have hk : k < 1 := by linarith
  rw [std_sigmoid]
  refine ⟨?formula, one_sub_le_sigmoid_den hx hk0, by linarith, sigmoid_neg x k, sigmoid_zero k,
    sigmoid_one hk, ?negOne, sigmoid_curvature_zero x, fun y hxy hy => ?increasing,
    fun hkpos hxpos hxlt => sigmoid_lt_self hkpos hk hxpos hxlt, ?halfExample, ?negHalfExample⟩
  case formula => rw [sigmoid, magnitude_eq_abs]
  case negOne => rw [sigmoid_neg, sigmoid_one hk]
  case increasing => exact sigmoid_lt_sigmoid hx (abs_le.mpr ⟨by linarith, hy⟩) hk0 hk hxy
  case halfExample => norm_num [sigmoid, magnitude]
  case negHalfExample => norm_num [sigmoid, magnitude]

end Sys2Proof.Machine
end

section
/-! SUPPORT. The LFO's advance (44_lfo.md R222, R224). -/

namespace Sys2Proof.Machine

section
variable {α : Type} [Field α] [LinearOrder α] [FloorRing α] (c : Config α) {l : LfoState α} {inc : α}

/-- Below a sum of 1 the phase alone moves, and nothing is drawn. -/
theorem lfoStep_of_lt (h : l.phase + inc < 1) (draws : Nat) :
    lfoStep c l inc draws = (⟨l.phase + inc, l.sh⟩, draws) := if_neg h.not_ge

/-- From a sum of 1 on the phase wraps and one draw is held, however many cycles the sum covers. -/
theorem lfoStep_of_le (h : 1 ≤ l.phase + inc) (draws : Nat) :
    lfoStep c l inc draws = (⟨frac (l.phase + inc), c.draw draws⟩, draws + 1) := if_pos h

end

/-- Settles O39: the phase is the sum's fraction; the held value and the draws follow the two cases of the
advance. -/
theorem lfoAdvancesModuloOne : Obligations.LfoAdvancesModuloOne := by
  intro l inc draws hphase _ hinc
  have hnext : (lfoStep std l inc draws).1.phase = frac (l.phase + inc) :=
    lfoStep_phase std l inc draws (add_nonneg hphase hinc)
  obtain ⟨hnonneg, hlt⟩ := frac_isPhase (l.phase + inc)
  rw [hnext]
  refine ⟨rfl, hnonneg, hlt, fun below => ?below, fun wraps => ?wraps⟩
  case below => rw [lfoStep_of_lt std below]; exact ⟨rfl, rfl⟩
  case wraps => rw [lfoStep_of_le std wraps]; exact ⟨rfl, rfl⟩

end Sys2Proof.Machine
end

section
/-! SUPPORT. The stealing policy's scan (47_engine_commands.md R283). -/

namespace Sys2Proof.Machine

section
variable {α : Type} {rank : Voice α → Option α} {vs : List (Voice α)} {v : Voice α} {i : Nat} {t : α}

/-! ### The candidates of a pool -/

/-- Voice `i` of the pool is a candidate under `rank`, with uptime `t`. -/
def Ranked (rank : Voice α → Option α) (vs : List (Voice α)) (i : Nat) (t : α) : Prop :=
  ∃ v, vs[i]? = some v ∧ rank v = some t

theorem Ranked.lt_length (h : Ranked rank vs i t) : i < vs.length := by
  obtain ⟨_, hi, _⟩ := h
  exact (List.getElem?_eq_some_iff.mp hi).1

theorem ranked_concat_iff :
    Ranked rank (vs ++ [v]) i t ↔ Ranked rank vs i t ∨ i = vs.length ∧ rank v = some t := by
  rcases lt_trichotomy i vs.length with hlt | rfl | hgt
  · simp [Ranked, List.getElem?_append_left hlt, hlt.ne]
  · simp [Ranked]
  · simp [Ranked, hgt.ne', hgt.le, List.getElem?_eq_none (l := vs ++ [v]) (by simpa using hgt)]

theorem ranked_rankReleased_iff :
    Ranked rankReleased vs i t ↔ ∃ v, vs[i]? = some v ∧ v.gateOn = false ∧ v.gateOffUptime = t := by
  simp [Ranked, rankReleased]

theorem ranked_rankSounding_iff :
    Ranked rankSounding vs i t ↔ ∃ v, vs[i]? = some v ∧ v.gateOnUptime = t := by
  simp [Ranked, rankSounding]

/-! ### The scan finds the first candidate of the largest uptime -/

variable [LinearOrder α]

/-- R283: candidate `i` has the largest uptime `t`, and no candidate before it has the same. -/
structure FirstLargest (rank : Voice α → Option α) (vs : List (Voice α)) (i : Nat) (t : α) : Prop where
  ranked : Ranked rank vs i t
  largest : ∀ {j : Nat} {u : α}, Ranked rank vs j u → u ≤ t
  first : ∀ {j : Nat} {u : α}, Ranked rank vs j u → j < i → u < t

/-- A candidate at the end of the pool is the first largest when its uptime exceeds every earlier one. -/
theorem firstLargest_concat_last (hv : rank v = some t)
    (h : ∀ {j : Nat} {u : α}, Ranked rank vs j u → u < t) :
    FirstLargest rank (vs ++ [v]) vs.length t where
  ranked := ranked_concat_iff.mpr (.inr ⟨rfl, hv⟩)
  largest hj := by
    rcases ranked_concat_iff.mp hj with hj | ⟨_, hu⟩
    · exact (h hj).le
    · exact (Option.some.inj (hu.symm.trans hv)).le
  first hj hlt := by
    rcases ranked_concat_iff.mp hj with hj | ⟨rfl, _⟩
    · exact h hj
    · exact absurd hlt (lt_irrefl _)

/-- The first largest candidate stays so when the pool's next voice does not exceed its uptime. -/
theorem FirstLargest.concat (h : FirstLargest rank vs i t) (hv : ∀ u, rank v = some u → u ≤ t) :
    FirstLargest rank (vs ++ [v]) i t where
  ranked := ranked_concat_iff.mpr (.inl h.ranked)
  largest hj := by
    rcases ranked_concat_iff.mp hj with hj | ⟨_, hu⟩
    · exact h.largest hj
    · exact hv _ hu
  first hj hlt := by
    rcases ranked_concat_iff.mp hj with hj | ⟨rfl, _⟩
    · exact h.first hj hlt
    · exact absurd hlt h.ranked.lt_length.not_gt

/-- What the best candidate so far says of the voices scanned so far. -/
def ScanInv (rank : Voice α → Option α) (vs : List (Voice α)) : Option (Candidate α) → Prop
  | none => ∀ i t, ¬ Ranked rank vs i t
  | some (i, t) => FirstLargest rank vs i t

variable {best : Option (Candidate α)}

/-- R283: one step of the scan; only a strictly larger uptime displaces the best candidate. -/
theorem scanInv_betterOf (h : ScanInv rank vs best) (v : Voice α) :
    ScanInv rank (vs ++ [v]) (betterOf best vs.length (rank v)) := by
  match hv : rank v, best, h with
  | none, none, h => exact fun i t hi => h i t (by simpa [ranked_concat_iff, hv] using hi)
  | none, some (i, m), h => exact FirstLargest.concat h (by simp [hv])
  | some t, none, h => exact firstLargest_concat_last hv fun hj => absurd hj (h _ _)
  | some t, some (i, m), h =>
    rw [betterOf]
    split
    case isTrue hlt => exact firstLargest_concat_last hv fun hj => (FirstLargest.largest h hj).trans_lt hlt
    case isFalse hle =>
      exact FirstLargest.concat h fun u hu => Option.some.inj (hv.symm.trans hu) ▸ not_lt.mp hle

theorem scanInv_scanVoices (ws : List (Voice α)) {seen : List (Voice α)} (h : ScanInv rank seen best) :
    ScanInv rank (seen ++ ws) (scanVoices rank ws seen.length best) := by
  induction ws generalizing seen best with
  | nil => simpa [scanVoices] using h
  | cons v ws ih => simpa [scanVoices] using ih (scanInv_betterOf h v)

/-- The scan of a whole pool. -/
theorem scanInv_scanVoices_nil (rank : Voice α → Option α) (vs : List (Voice α)) :
    ScanInv rank vs (scanVoices rank vs 0 none) :=
  scanInv_scanVoices vs (seen := []) (by simp [ScanInv, Ranked])

theorem scanVoices_eq_some (h : Ranked rank vs i t) :
    ∃ j u, scanVoices rank vs 0 none = some (j, u) ∧ FirstLargest rank vs j u := by
  have hscan := scanInv_scanVoices_nil rank vs
  match scanVoices rank vs 0 none, hscan with
  | none, hscan => exact absurd h (hscan i t)
  | some (j, u), hscan => exact ⟨j, u, rfl, hscan⟩

theorem scanVoices_eq_none (h : ∀ i t, ¬ Ranked rank vs i t) : scanVoices rank vs 0 none = none := by
  have hscan := scanInv_scanVoices_nil rank vs
  match scanVoices rank vs 0 none, hscan with
  | none, _ => rfl
  | some (j, u), hscan => exact absurd (FirstLargest.ranked hscan) (h j u)

/-! ### The two cases of STEAL -/

/-- R283 (a). -/
theorem firstLargest_steal_of_released (h : ∃ w ∈ vs, w.gateOn = false) :
    ∃ t, FirstLargest rankReleased vs (steal vs) t := by
  obtain ⟨w, hw, hoff⟩ := h
  obtain ⟨i, hi⟩ := List.mem_iff_getElem?.mp hw
  obtain ⟨j, t, hscan, hbest⟩ := scanVoices_eq_some (ranked_rankReleased_iff.mpr ⟨w, hi, hoff, rfl⟩)
  exact ⟨t, by simpa [steal, hscan] using hbest⟩

/-- R283 (b). -/
theorem firstLargest_steal_of_all_gated (hne : vs ≠ []) (h : ∀ w ∈ vs, w.gateOn = true) :
    ∃ t, FirstLargest rankSounding vs (steal vs) t := by
  have hnone : scanVoices rankReleased vs 0 none = none := scanVoices_eq_none fun i t hi => by
    obtain ⟨w, hw, hoff, _⟩ := ranked_rankReleased_iff.mp hi
    simp [h w (List.mem_of_getElem? hw)] at hoff
  obtain ⟨w, hw⟩ := List.exists_mem_of_ne_nil vs hne
  obtain ⟨i, hi⟩ := List.mem_iff_getElem?.mp hw
  obtain ⟨j, t, hscan, hbest⟩ := scanVoices_eq_some (ranked_rankSounding_iff.mpr ⟨w, hi, rfl⟩)
  exact ⟨t, by simpa [steal, hnone, hscan] using hbest⟩

end

/-- Settles O17: the scan's first largest candidate, read under the ranking of the case at hand. -/
theorem stealPrefersTheLongestReleased : Obligations.StealPrefersTheLongestReleased := by
  intro vs hne
  by_cases hreleased : ∃ w ∈ vs, w.gateOn = false
  case pos =>
    obtain ⟨t, h⟩ := firstLargest_steal_of_released hreleased
    obtain ⟨v, hv, hoff, rfl⟩ := ranked_rankReleased_iff.mp h.ranked
    refine ⟨v, hv, fun _ => ⟨hoff, fun w hw hwoff => ?largest, fun j w hj hw hwoff => ?first⟩,
      fun hall => ?noneReleased⟩
    case largest =>
      obtain ⟨j, hj⟩ := List.mem_iff_getElem?.mp hw
      exact h.largest (ranked_rankReleased_iff.mpr ⟨w, hj, hwoff, rfl⟩)
    case first => exact h.first (ranked_rankReleased_iff.mpr ⟨w, hw, hwoff, rfl⟩) hj
    case noneReleased =>
      obtain ⟨w, hw, hwoff⟩ := hreleased
      simp [hall w hw] at hwoff
  case neg =>
    have hall : ∀ w ∈ vs, w.gateOn = true := by simpa using hreleased
    obtain ⟨t, h⟩ := firstLargest_steal_of_all_gated hne hall
    obtain ⟨v, hv, rfl⟩ := ranked_rankSounding_iff.mp h.ranked
    refine ⟨v, hv, fun hsome => absurd hsome hreleased,
      fun _ => ⟨fun w hw => ?largest, fun j w hj hw => ?first⟩⟩
    case largest =>
      obtain ⟨j, hj⟩ := List.mem_iff_getElem?.mp hw
      exact h.largest (ranked_rankSounding_iff.mpr ⟨w, hj, rfl⟩)
    case first => exact h.first (ranked_rankSounding_iff.mpr ⟨w, hw, rfl⟩) hj

end Sys2Proof.Machine
end

section
/-! SUPPORT. Decoding undoes encoding, and the serialised forms read back (30_encoding.md R81, R83, R88 to
R90, 20_memory.md R61). -/

namespace Sys2Proof

/-! ### The fields of an encoded word -/

@[simp] theorem opField_formatC (op : BitVec 8) (a : Half) (f : F32) : opField (formatC op a f) = op := by
  unfold opField formatC
  rw [BitVec.extractLsb'_append_eq_of_le (w := 32) (v := 32) (by decide),
    BitVec.extractLsb'_append_eq_of_le (by decide), BitVec.extractLsb'_append_eq_left]

@[simp] theorem rsvField_formatC (op : BitVec 8) (a : Half) (f : F32) : rsvField (formatC op a f) = 0 := by
  unfold rsvField formatC
  rw [BitVec.extractLsb'_append_eq_of_le (w := 32) (v := 32) (by decide),
    BitVec.extractLsb'_append_eq_of_le (by decide), BitVec.extractLsb'_append_eq_right]

@[simp] theorem aField_formatC (op : BitVec 8) (a : Half) (f : F32) : aField (formatC op a f) = a := by
  unfold aField formatC
  rw [BitVec.extractLsb'_append_eq_of_le (w := 32) (v := 32) (by decide),
    BitVec.extractLsb'_append_eq_right]

@[simp] theorem fField_formatC (op : BitVec 8) (a : Half) (f : F32) : fField (formatC op a f) = f :=
  BitVec.extractLsb'_append_eq_right

/-- The row of a well-formed command selects its encoding. -/
theorem encode_row {i : Instr} (h : i.wellFormed = true) : encode i &&& i.tableMask = i.tableMatch := by
  cases i with
  | prepare f a => exact Laws.TableRow.prepare f a h
  | setparam a f => exact Laws.TableRow.setparam a f h
  | noteon a f => exact Laws.TableRow.noteon a f h
  | noteoff a => exact Laws.TableRow.noteoff a h
  | process a => exact Laws.TableRow.process a h

/-- A command's operands are the fields of its encoding. -/
theorem withOperandsOf_encode (i : Instr) : i.withOperandsOf (encode i) = i := by
  cases i <;> simp [Instr.withOperandsOf, encode]

theorem decode_encode {i : Instr} (h : i.wellFormed = true) : decode (encode i) = .legal i :=
  (decode_eq_legal_iff _ i).mpr ⟨withOperandsOf_encode i, encode_row h⟩

/-- Settles O2: the row of the command selects its encoding, and the fields hold its operands. -/
theorem decodeOfEncodeIsTheCommand : Obligations.DecodeOfEncodeIsTheCommand :=
  fun _ h => decode_encode h

/-- A word that the row of `i` selects, with the operands of `i`, is the encoding of `i`. -/
theorem encode_of_row {w : Word} {i : Instr} (operands : i.withOperandsOf w = i)
    (row : w &&& i.tableMask = i.tableMatch) : i.wellFormed = true ∧ encode i = w := by
  rw [← operands]
  simp only [word_eq_iff_fields]
  cases i with
  | prepare f a =>
    obtain ⟨hrsv, hop⟩ := (prepareRow_iff ..).mp row
    simp [Instr.withOperandsOf, Instr.wellFormed, encode, hrsv, hop]
  | setparam a f =>
    obtain ⟨hrsv, hop⟩ := (setparamRow_iff ..).mp row
    simp [Instr.withOperandsOf, Instr.wellFormed, encode, hrsv, hop]
  | noteon a f =>
    obtain ⟨hrsv, hop, hnote⟩ := (noteonRow_iff ..).mp row
    simp [Instr.withOperandsOf, Instr.wellFormed, encode, hrsv, hop, hnote]
  | noteoff a =>
    obtain ⟨hrsv, hop, hnote, hf⟩ := (noteoffRow_iff ..).mp row
    simp [Instr.withOperandsOf, Instr.wellFormed, encode, hrsv, hop, hnote, hf]
  | process a =>
    obtain ⟨hrsv, hop, hf⟩ := (processRow_iff ..).mp row
    simp [Instr.withOperandsOf, Instr.wellFormed, encode, hrsv, hop, hf]

/-- Settles O3: the row that selects a word fixes every bit that the operands do not. -/
theorem legalWordIsItsCommandsEncoding : Obligations.LegalWordIsItsCommandsEncoding := by
  intro w i h
  obtain ⟨operands, row⟩ := row_of_decode_eq_legal h
  exact encode_of_row operands row

/-- Settles O1: the operands' values and the decodings are evaluated; the two illegal forms hold for every
`f`, and the first for every `a`. -/
theorem workedWordsDecode : Obligations.WorkedWordsDecode := by
  refine ⟨by decide +kernel, by decide, by decide, by decide, by decide, by decide, by decide,
    fun a f => ⟨.reservedOpcode, ?_⟩, fun f => ⟨.noteAbove127, ?_⟩, .reservedFieldNonzero, by decide⟩
  · simp [decode]
  · simp [decode, noteInRange]

/-! ### Serialised words and frames -/

/-- Eight bytes, least significant first, put together again. -/
theorem bytesWord_wordBytes (w : Word) :
    bytesWord (w.extractLsb' 0 8) (w.extractLsb' 8 8) (w.extractLsb' 16 8) (w.extractLsb' 24 8)
      (w.extractLsb' 32 8) (w.extractLsb' 40 8) (w.extractLsb' 48 8) (w.extractLsb' 56 8) = w := by
  unfold bytesWord
  repeat rw [BitVec.extractLsb'_append_extractLsb'_eq_extractLsb' (by rfl)]
  exact BitVec.extractLsb'_eq_self

theorem decodeBytes_wordBytes (w : Word) (rest : List Byte) :
    decodeBytes (wordBytes w ++ rest) = some (decode w, rest) := by
  simp only [wordBytes, List.cons_append, List.nil_append, decodeBytes, bytesWord_wordBytes]

namespace Machine

theorem Frame.item_left (f : Frame) : f.item.extractLsb' 0 32 = f.left := BitVec.extractLsb'_append_eq_right

theorem Frame.item_right (f : Frame) : f.item.extractLsb' 32 32 = f.right := BitVec.extractLsb'_append_eq_left

theorem Frame.ofItem_item (f : Frame) : Frame.ofItem f.item = f := by
  rw [Frame.ofItem, f.item_left, f.item_right]

theorem readFrame_bytes (f : Frame) (rest : List Byte) : readFrame (f.bytes ++ rest) = some (f, rest) := by
  simp only [Frame.bytes, wordBytes, List.cons_append, List.nil_append, readFrame, bytesWord_wordBytes,
    Frame.ofItem_item]

/-- A byte of the low half of an item is one of `left`. -/
theorem Frame.item_byte_low (f : Frame) {k : Nat} (h : k + 8 ≤ 32) :
    f.item.extractLsb' k 8 = f.left.extractLsb' k 8 := BitVec.extractLsb'_append_eq_of_add_le h

/-- A byte of the high half of an item is one of `right`. -/
theorem Frame.item_byte_high (f : Frame) (k : Nat) :
    f.item.extractLsb' (32 + k) 8 = f.right.extractLsb' k 8 := by
  unfold Frame.item
  rw [BitVec.extractLsb'_append_eq_of_le (Nat.le_add_right _ _), Nat.add_sub_cancel_left]

theorem Frame.bytes_eq (f : Frame) : f.bytes =
    [f.left.extractLsb' 0 8, f.left.extractLsb' 8 8, f.left.extractLsb' 16 8, f.left.extractLsb' 24 8,
     f.right.extractLsb' 0 8, f.right.extractLsb' 8 8, f.right.extractLsb' 16 8,
     f.right.extractLsb' 24 8] := by
  unfold Frame.bytes wordBytes
  rw [f.item_byte_low (k := 0) (by decide), f.item_byte_low (k := 8) (by decide),
    f.item_byte_low (k := 16) (by decide), f.item_byte_low (k := 24) (by decide),
    ← f.item_byte_high 0, ← f.item_byte_high 8, ← f.item_byte_high 16, ← f.item_byte_high 24]

/-- Settles O5: the bytes of a word and the halves of a frame by their lemmas; a frame pushed on the list of
emitted ones is the last of its reversal. -/
theorem serialisedWordDecodesAsTheWord : Obligations.SerialisedWordDecodesAsTheWord := by
  refine ⟨decodeBytes_wordBytes, fun f => ⟨f.item_left, f.item_right, f.ofItem_item⟩, Frame.bytes_eq,
    readFrame_bytes, fun s f => ⟨?_, ?_⟩⟩
  · simp [StateOf.outputBytes]
  · simp [StateOf.outputItems]

end Machine

end Sys2Proof
end

section
/-! SUPPORT. The step, and what each command does and leaves alone (00_scope.md R5, 47_engine_commands.md
R280 to R285). -/

namespace Sys2Proof.Machine

set_option linter.unusedSectionVars false

section
variable {α : Type} [Field α] [LinearOrder α] [IsStrictOrderedRing α] [FloorRing α] (c : Config α)

/-! ### The step -/

/-- A legal word is consumed and its command executed. -/
theorem blockStep_legal {s : StateOf α} {w : Word} {ws : List Word} {i : Instr}
    (hs : s.inbox = w :: ws) (hd : decode w = .legal i) :
    blockStep c s = command c i (s.setInbox ws) := by
  obtain ⟨hnil, -⟩ | ⟨w', ws', hcons, hcase⟩ := blockStep_cases c s
  · cases hs.symm.trans hnil
  · cases hs.symm.trans hcons
    obtain ⟨j, hj, h1⟩ | ⟨why, hwhy, -⟩ := hcase
    · cases hd.symm.trans hj
      exact h1
    · cases hd.symm.trans hwhy

theorem blockStep_nil {s : StateOf α} (hs : s.inbox = []) : blockStep c s = s := by
  obtain ⟨-, h1⟩ | ⟨w, ws, hcons, -⟩ := blockStep_cases c s
  · exact h1
  · cases hs.symm.trans hcons

/-! ### Commands whose condition is met -/

theorem prepareCommand_accepted {f : F32} {r : Rat} (hf : f32Value f = some (.finite r)) (hr : 0 < r)
    (a : Half) (s : StateOf α) : prepareCommand c f a s = prepareState c (r : α) a s := by
  unfold prepareCommand
  rw [acceptedRate_eq_some.mpr ⟨hf, hr⟩]

theorem setparamCommand_number {value : F32} {x : ExtNum} (hx : f32Value value = some x) (key : Half)
    (s : StateOf α) : setparamCommand key value s = s.setParams (s.params.write key.toNat x) := by
  unfold setparamCommand
  rw [hx]

theorem noteonCommand_prepared {a : Half} {n : Fin 128} (hn : a.toNat = n.val) {s : StateOf α}
    (hp : s.prepared = true) : noteonCommand c a s = noteOnState c n s := by
  unfold noteonCommand
  rw [noteOperand_eq_some hn]
  exact if_pos hp

theorem noteoffCommand_note {a : Half} {n : Fin 128} (hn : a.toNat = n.val) (s : StateOf α) :
    noteoffCommand a s = s.setVoices (releaseNote n s.voices) := by
  unfold noteoffCommand
  rw [noteOperand_eq_some hn]

theorem processCommand_prepared {s : StateOf α} (hp : s.prepared = true) (a : Half) :
    processCommand c a s = processFrames c a.toNat s := if_pos hp

theorem processCommand_unprepared {s : StateOf α} (hp : s.prepared = false) (a : Half) :
    processCommand c a s = s.emitSilence a.toNat := if_neg (by simp [hp])

end

/-! ### The executable block -/

/-- Settles O7: the step's waiting case. -/
theorem stepWithoutACommandHoldsTheState : Obligations.StepWithoutACommandHoldsTheState := by
  intro s hs
  rw [step_eq, blockStep_nil std hs]

theorem step_legal {s : State} {w : Word} {ws : List Word} {i : Instr} (hs : s.inbox = w :: ws)
    (hd : decode w = .legal i) : step s = exec i (s.setInbox ws) := by
  rw [step_eq, blockStep_legal std hs hd, exec_eq]
  rfl

/-- Settles O6: the step's legal case, for a word in the input stream and for one just placed there. -/
theorem stepRunsTheDecodedCommand : Obligations.StepRunsTheDecodedCommand := by
  refine ⟨fun s w ws i hs hd => step_legal hs hd, fun s w i hd => ?_⟩
  have hplace : (s.withFetchWord 64 w.toNat).inbox = w :: s.inbox := by
    change BitVec.ofNat 64 w.toNat :: s.inbox = _
    rw [BitVec.ofNat_toNat, BitVec.setWidth_eq]
  exact step_legal hplace hd

/-- Settles O9: the step is a function to states. -/
theorem everyStepAnswersANextState : Obligations.EveryStepAnswersANextState :=
  fun s => ⟨_, step_eq s⟩

/-- Settles O10: the accepting case of PREPARE; a rational rate is itself in the executable block. -/
theorem prepareSetsRateAndHighpass : Obligations.PrepareSetsRateAndHighpass := by
  intro f a r s hf hr
  have h : command std (.prepare f a) s.toStateOf = prepareState std r a s.toStateOf :=
    (prepareCommand_accepted std hf hr a _).trans (by rw [Rat.cast_id])
  rw [exec_eq, h]
  rfl

/-- Settles O12: what a register reads after a write to it and to another one. -/
theorem setparamWritesExactlyOneRegister : Obligations.SetparamWritesExactlyOneRegister := by
  intro key value x ty s hx hty
  refine ⟨s.params.write key.toNat x, ?_, Params.read_write_self _ hty x,
    fun k hk => Params.read_write_other _ hk x⟩
  rw [exec_eq]
  exact congrArg (fun t => Host.Outcome.next (State.mk t)) (setparamCommand_number hx key _)

/-- A second write of the same value changes nothing. -/
theorem Params.write_write {α : Type} [Field α] (p : Params α) (k : Nat) (x : ExtNum) :
    (p.write k x).write k x = p.write k x := by
  by_cases hk : k ≤ 32
  · interval_cases k <;> rfl
  · exact Params.write_unmapped _ (by omega) x

/-- Settles O15: a NaN changes nothing either time; else the second write repeats the first. -/
theorem setparamTwiceIsSetparamOnce : Obligations.SetparamTwiceIsSetparamOnce := by
  intro key value s
  refine ⟨_, exec_eq _ s, exec_eq_self ?_⟩
  change setparamCommand key value (setparamCommand key value s.toStateOf) = _
  cases hx : f32Value value with
  | none => exact setparamCommand_nan hx key _
  | some x =>
    change _ = setparamCommand key value s.toStateOf
    rw [setparamCommand_number hx, setparamCommand_number hx, StateOf.setParams_params,
      Params.write_write]
    rfl

/-- Settles O16: NOTEON's prepared case. -/
theorem noteonStartsTheStolenVoice : Obligations.NoteonStartsTheStolenVoice := by
  intro a velocity n s hn hp
  have h : command std (.noteon a velocity) s.toStateOf = noteOnState std n s.toStateOf :=
    noteonCommand_prepared std hn hp
  rw [exec_eq, h]
  rfl

/-- Settles O18: NOTEOFF of a note in range. -/
theorem noteoffReleasesEveryVoiceOfTheNote : Obligations.NoteoffReleasesEveryVoiceOfTheNote := by
  intro a n s hn
  have h : command std (.noteoff a) s.toStateOf = s.toStateOf.setVoices (releaseNote n s.voices) :=
    noteoffCommand_note hn _
  rw [exec_eq, h]
  rfl

/-- Settles O19: PROCESS before PREPARE. -/
theorem unpreparedProcessEmitsSilence : Obligations.UnpreparedProcessEmitsSilence := by
  intro a s hp
  have h : command std (.process a) s.toStateOf = s.toStateOf.emitSilence a.toNat :=
    processCommand_unprepared std hp a
  rw [exec_eq, h]
  rfl

/-! ### The operand conversions and the register table -/

/-- Settles O13: a unary is a clamp, an enumeration's number the clamp of the rounded value. -/
theorem parameterConversionsFollowTheTypes : Obligations.ParameterConversionsFollowTheTypes := by
  refine ⟨fun x => ?unary, fun x => rfl, fun x top => ⟨_, rfl, ?enum⟩, fun top => ?ends⟩
  case unary =>
    simp only [ExtNum.convert, ExtNum.toUnary, Rat.cast_id, clamp01, clamp_eq_max_min x 0 1 zero_le_one]
  case enum =>
    simp only [ExtNum.toIndex, roundHalfUp_eq]
    omega
  case ends => simp [ExtNum.convert, ExtNum.toUnary, ExtNum.toBool, ExtNum.toIndex]

section
variable {α : Type} (p : Params α) {k : Nat}

theorem paramType_isSome_iff : (paramType k).isSome = true ↔ k ≤ 32 := by
  by_cases hk : k ≤ 32
  · simp only [hk, iff_true]
    interval_cases k <;> rfl
  · unfold paramType
    split <;> simp_all

theorem Params.read_unmapped (h : paramType k = none) : p.read k = none := by
  have hk : ¬ k ≤ 32 := by rw [← paramType_isSome_iff, h]; decide
  unfold Params.read
  split <;> first | rfl | omega

theorem Params.read_bool (h : paramType k = some .bool) : ∃ b, p.read k = some (.bool b) := by
  unfold paramType at h
  split at h <;> cases h <;> exact ⟨_, rfl⟩

theorem Params.read_enum {top : Nat} (h : paramType k = some (.enum top)) :
    ∃ n, p.read k = some (.enum n) ∧ n ≤ top := by
  unfold paramType at h
  split at h <;> cases h <;> refine ⟨_, rfl, ?_⟩
  · exact p.osc1Wave.index_le
  · exact p.osc2Wave.index_le
  · exact p.filterType.index_le
  · exact p.lfoWave.index_le
  · exact Nat.le_of_lt_succ p.lfoTarget.isLt
  · exact Nat.le_of_lt_succ p.modTarget.isLt
  · exact p.voicingMode.index_le

theorem Params.read_unary [Field α] [LinearOrder α] (h : paramType k = some .unary) :
    ∃ x, p.read k = some (.unary x) ∧ (p.Inv → IsUnary x) := by
  unfold paramType at h
  split at h <;> cases h <;> refine ⟨_, rfl, fun hp => ?_⟩ <;> obtain ⟨⟩ := hp <;> assumption

end

/-- Settles O14: the tables by evaluation, the reads of every key by the type of its register. -/
theorem parameterSpaceHasThirtyThreeRegisters : Obligations.ParameterSpaceHasThirtyThreeRegisters :=
  ⟨rfl, fun _ => paramType_isSome_iff, rfl, rfl, rfl, rfl, fun p => ⟨rfl, fun _ =>
    ⟨p.read_unmapped, p.read_unary, p.read_bool, fun _ => p.read_enum⟩⟩⟩

/-! ### Which command writes what -/

section
variable {α : Type} [Field α] [LinearOrder α] [IsStrictOrderedRing α] [FloorRing α] (c : Config α)

/-- A frame keeps the size of the pool. -/
theorem processFrame_voices_length (s : StateOf α) :
    (processFrame c s).voices.length = s.voices.length := by
  by_cases h : s.cursor = 0
  · rw [processFrame_of_cursor_zero c h]
    exact regenerate_voices_length c s
  · rw [processFrame_of_cursor_ne_zero c h]
    rfl

theorem processFrames_voices_length (n : Nat) (s : StateOf α) :
    (processFrames c n s).voices.length = s.voices.length := by
  induction n generalizing s with
  | zero => rfl
  | succ n ih => exact (ih _).trans (processFrame_voices_length c s)

/-- PREPARE writes the rate, the block size, `prepared` and the voices. -/
theorem prepareCommand_keeps (f : F32) (a : Half) (s : StateOf α) :
    prepareCommand c f a s =
        { s with
          sampleRate := (prepareCommand c f a s).sampleRate
          maxFrames := (prepareCommand c f a s).maxFrames
          prepared := (prepareCommand c f a s).prepared
          voices := (prepareCommand c f a s).voices } ∧
      (prepareCommand c f a s).voices.length = s.voices.length := by
  obtain ⟨r, -, h⟩ | ⟨-, h⟩ := prepareCommand_cases c f a s <;> rw [h]
  · exact ⟨rfl, List.length_map _⟩
  · exact ⟨rfl, rfl⟩

/-- SETPARAM writes the registers. -/
theorem setparamCommand_keeps (k : Half) (x : F32) (s : StateOf α) :
    setparamCommand k x s = { s with params := (setparamCommand k x s).params } := by
  obtain ⟨y, -, h⟩ | ⟨-, h⟩ := setparamCommand_cases k x s <;> rw [h]
  rfl

/-- NOTEON writes the voices and takes a seed. -/
theorem noteonCommand_keeps (a : Half) (s : StateOf α) :
    noteonCommand c a s =
        { s with
          voices := (noteonCommand c a s).voices
          seedCount := (noteonCommand c a s).seedCount } ∧
      (noteonCommand c a s).voices.length = s.voices.length := by
  obtain ⟨n, -, -, h⟩ | ⟨-, h⟩ := noteonCommand_cases c a s <;> rw [h]
  · exact ⟨rfl, List.length_modify ..⟩
  · exact ⟨rfl, rfl⟩

/-- NOTEOFF writes the voices. -/
theorem noteoffCommand_keeps (a : Half) (s : StateOf α) :
    noteoffCommand a s = { s with voices := (noteoffCommand a s).voices } ∧
      (noteoffCommand a s).voices.length = s.voices.length := by
  obtain ⟨n, -, h⟩ | ⟨-, h⟩ := noteoffCommand_cases a s <;> rw [h]
  · exact ⟨rfl, List.length_map _⟩
  · exact ⟨rfl, rfl⟩

/-- What PROCESS leaves alone. -/
theorem processCommand_keeps (a : Half) (s : StateOf α) :
    (processCommand c a s).params = s.params ∧ (processCommand c a s).prepared = s.prepared ∧
      (processCommand c a s).sampleRate = s.sampleRate ∧
      (processCommand c a s).maxFrames = s.maxFrames ∧ (processCommand c a s).inbox = s.inbox ∧
      (processCommand c a s).seedCount = s.seedCount ∧
      (processCommand c a s).voices.length = s.voices.length := by
  obtain ⟨-, h⟩ | ⟨-, h⟩ := processCommand_cases c a s <;> rw [h]
  · obtain ⟨h1, h2, h3, h4, h5, h6⟩ := processFrames_keeps c a.toNat s
    exact ⟨h1, h2, h3, h4, h5, h6, processFrames_voices_length c _ s⟩
  · exact ⟨rfl, rfl, rfl, rfl, rfl, rfl, rfl⟩

end

/-! ### Who writes what -/

/-- Settles O26: each command's frame. -/
theorem eachCommandWritesOnlyItsOwnState : Obligations.EachCommandWritesOnlyItsOwnState := by
  intro i s t ht
  obtain rfl : State.mk (command std i s.toStateOf) = t := by
    rw [exec_eq] at ht
    exact Host.Outcome.next.inj ht
  cases i with
  | prepare f a =>
    obtain ⟨h, hlen⟩ := prepareCommand_keeps std f a s.toStateOf
    have hp := fun hne : ∀ f' a', Instr.prepare f a ≠ .prepare f' a' => hne f a rfl
    dsimp only [command]
    rw [h]
    exact ⟨fun _ => rfl, fun hne => (hp hne).elim, fun _ => ⟨rfl, rfl, rfl, rfl⟩, fun _ => rfl, rfl, hlen⟩
  | setparam k x =>
    dsimp only [command]
    rw [setparamCommand_keeps k x s.toStateOf]
    exact ⟨fun hne => (hne k x rfl).elim, fun _ => ⟨rfl, rfl, rfl⟩, fun _ => ⟨rfl, rfl, rfl, rfl⟩,
      fun _ => rfl, rfl, rfl⟩
  | noteon a f =>
    obtain ⟨h, hlen⟩ := noteonCommand_keeps std a s.toStateOf
    dsimp only [command]
    rw [h]
    exact ⟨fun _ => rfl, fun _ => ⟨rfl, rfl, rfl⟩, fun _ => ⟨rfl, rfl, rfl, rfl⟩,
      fun hne => (hne a f rfl).elim, rfl, hlen⟩
  | noteoff a =>
    obtain ⟨h, hlen⟩ := noteoffCommand_keeps a s.toStateOf
    dsimp only [command]
    rw [h]
    exact ⟨fun _ => rfl, fun _ => ⟨rfl, rfl, rfl⟩, fun _ => ⟨rfl, rfl, rfl, rfl⟩, fun _ => rfl, rfl, hlen⟩
  | process a =>
    obtain ⟨hparams, hprepared, hrate, hmax, hinbox, hseed, hlen⟩ := processCommand_keeps std a s.toStateOf
    exact ⟨fun _ => hparams, fun _ => ⟨hrate, hmax, hprepared⟩, fun hne => (hne a rfl).elim,
      fun _ => hseed, hinbox, hlen⟩

/-- Settles O27: an accepted PREPARE sets the flag, a rejected one and every other command keeps it. -/
theorem preparedIsSetOnlyByPrepareAndNeverCleared :
    Obligations.PreparedIsSetOnlyByPrepareAndNeverCleared := by
  intro i s t ht
  by_cases hi : ∃ f a, i = .prepare f a
  · obtain ⟨f, a, rfl⟩ := hi
    obtain rfl : State.mk (prepareCommand std f a s.toStateOf) = t := by
      rw [exec_eq] at ht
      exact Host.Outcome.next.inj ht
    obtain ⟨r, hr, h⟩ | ⟨-, h⟩ := prepareCommand_cases std f a s.toStateOf <;> rw [h]
    · obtain ⟨hf, hpos⟩ := acceptedRate_eq_some.mp hr
      exact ⟨fun _ => rfl, fun _ _ => ⟨f, a, r, rfl, hf, hpos⟩⟩
    · exact ⟨id, fun hs hset => by simp [hs] at hset⟩
  · have hne : ∀ f a, i ≠ .prepare f a := fun f a h => hi ⟨f, a, h⟩
    obtain ⟨-, -, hkept⟩ := (eachCommandWritesOnlyItsOwnState i s t ht).2.1 hne
    exact ⟨hkept.trans, fun hs hset => by simp [hkept, hs] at hset⟩

/-- What PROCESS keeps of a voice. -/
def Voice.kept {α : Type} (v : Voice α) : Fin 128 × Bool × Nat × α := (v.note, v.gateOn, v.seed, v.filt.hpG)

section
variable {α : Type} [Field α] [LinearOrder α] [IsStrictOrderedRing α] [FloorRing α] (c : Config α)

theorem voiceRender_kept (p : Params α) (rate : α) (v : Voice α) (draws : Nat) :
    (voiceRender c p rate v draws).2.1.kept = v.kept := by
  obtain ⟨h1, h2, h3, h4⟩ := voiceRender_keeps c p rate v draws
  simp only [Voice.kept, h1, h2, h3, h4]

theorem renderVoices_kept (p : Params α) (rate : α) (vs : List (Voice α)) (draws : Nat) :
    (renderVoices c p rate vs draws).1.map Voice.kept = vs.map Voice.kept := by
  induction vs generalizing draws with
  | nil => rfl
  | cons v vs ih => simp only [renderVoices, List.map_cons, voiceRender_kept, ih]

theorem processFrame_kept (s : StateOf α) :
    (processFrame c s).voices.map Voice.kept = s.voices.map Voice.kept := by
  by_cases h : s.cursor = 0
  · rw [processFrame_of_cursor_zero c h]
    exact renderVoices_kept c _ _ _ _
  · rw [processFrame_of_cursor_ne_zero c h]
    rfl

theorem processFrames_kept (n : Nat) (s : StateOf α) :
    (processFrames c n s).voices.map Voice.kept = s.voices.map Voice.kept := by
  induction n generalizing s with
  | zero => rfl
  | succ n ih => exact (ih _).trans (processFrame_kept c s)

theorem processCommand_kept (a : Half) (s : StateOf α) :
    (processCommand c a s).voices.map Voice.kept = s.voices.map Voice.kept := by
  obtain ⟨-, h⟩ | ⟨-, h⟩ := processCommand_cases c a s <;> rw [h]
  · exact processFrames_kept c _ s
  · rfl

end

/-- Settles O25: the command's frame, and what a rendering keeps of each voice. -/
theorem processKeepsRegistersNotesAndGates : Obligations.ProcessKeepsRegistersNotesAndGates := by
  intro a s t ht
  obtain rfl : State.mk (processCommand std a s.toStateOf) = t := by
    rw [exec_eq] at ht
    exact Host.Outcome.next.inj ht
  obtain ⟨h1, h2, h3, h4, h5, h6, -⟩ := processCommand_keeps std a s.toStateOf
  exact ⟨h1, h2, h3, h4, h5, h6, processCommand_kept std a s.toStateOf⟩

end Sys2Proof.Machine
end

section
/-! SUPPORT. The invariant of the reachable states is kept by every step (10_state.md R40), and the reset
state (R39). -/

namespace Sys2Proof.Machine

set_option linter.unusedSectionVars false

section
variable {α : Type} [Field α] [LinearOrder α] [IsStrictOrderedRing α] [FloorRing α] {c : Config α}
variable {s : StateOf α}

/-- New voices of the same number that meet their invariant keep the state's. -/
theorem StateOf.Inv.setVoices (h : s.Inv c) {vs : List (Voice α)} (hvs : ∀ v ∈ vs, v.Inv c)
    (hlen : vs.length = s.voices.length) : (s.setVoices vs).Inv c :=
  { h with voices := hvs, nVoices := hlen.trans h.nVoices }

theorem StateOf.Inv.setInbox (h : s.Inv c) (ws : List Word) : (s.setInbox ws).Inv c := { h with }

theorem StateOf.Inv.prepareState (h : s.Inv c) {rate : α} (hr : 0 < rate) (a : Half) :
    (Machine.prepareState c rate a s).Inv c :=
  { h with
    voices := List.forall_mem_map.mpr fun v hv => (h.voices v hv).setSampleRate rate
    nVoices := (List.length_map _).trans h.nVoices
    rate := fun _ => hr }

theorem StateOf.Inv.processFrames (hc : c.Lawful) (n : Nat) (h : s.Inv c) (hp : s.prepared = true) :
    (Machine.processFrames c n s).Inv c := by
  induction n generalizing s with
  | zero => exact h
  | succ n ih =>
    obtain ⟨-, hkept, -⟩ := processFrame_keeps c s
    exact ih (h.processFrame hc hp) (hkept.trans hp)

/-- A predicate that an update keeps holds of every entry after one entry was updated. -/
theorem forall_mem_modify {β : Type} {P : β → Prop} {f : β → β} (hf : ∀ x, P x → P (f x)) {l : List β}
    (h : ∀ x ∈ l, P x) (i : Nat) : ∀ x ∈ l.modify i f, P x := by
  intro x hx
  obtain ⟨j, hj⟩ := List.mem_iff_getElem?.mp hx
  rw [List.getElem?_modify] at hj
  obtain ⟨y, hy, rfl⟩ := Option.map_eq_some_iff.mp hj
  have hPy := h y (List.mem_of_getElem? hy)
  split_ifs
  · exact hf y hPy
  · exact hPy

theorem StateOf.Inv.noteOnState (hc : c.Lawful) (h : s.Inv c) (n : Fin 128) :
    (Machine.noteOnState c n s).Inv c :=
  { h.setVoices (forall_mem_modify (fun _ hv => hv.noteOn hc n _) h.voices _) (List.length_modify ..) with }

theorem StateOf.Inv.releaseNote (h : s.Inv c) (n : Fin 128) :
    (s.setVoices (Machine.releaseNote n s.voices)).Inv c := by
  refine h.setVoices (List.forall_mem_map.mpr fun v hv => ?_) (List.length_map _)
  split_ifs
  · exact (h.voices v hv).noteOff
  · exact h.voices v hv

/-- Every command keeps the invariant. -/
theorem StateOf.Inv.command (hc : c.Lawful) (h : s.Inv c) (i : Instr) :
    (Machine.command c i s).Inv c := by
  cases i with
  | prepare f a =>
    obtain ⟨r, hr, he⟩ | ⟨-, he⟩ := prepareCommand_cases c f a s <;> dsimp only [Machine.command] <;> rw [he]
    · exact h.prepareState (Rat.cast_pos.mpr (acceptedRate_eq_some.mp hr).2) a
    · exact h
  | setparam k x =>
    obtain ⟨y, -, he⟩ | ⟨-, he⟩ := setparamCommand_cases k x s <;> dsimp only [Machine.command] <;> rw [he]
    · exact { h with params := h.params.write k.toNat y }
    · exact h
  | noteon a f =>
    obtain ⟨n, -, -, he⟩ | ⟨-, he⟩ := noteonCommand_cases c a s <;> dsimp only [Machine.command] <;> rw [he]
    · exact h.noteOnState hc n
    · exact h
  | noteoff a =>
    obtain ⟨n, -, he⟩ | ⟨-, he⟩ := noteoffCommand_cases a s <;> dsimp only [Machine.command] <;> rw [he]
    · exact h.releaseNote n
    · exact h
  | process a =>
    obtain ⟨hp, he⟩ | ⟨-, he⟩ := processCommand_cases c a s <;> dsimp only [Machine.command] <;> rw [he]
    · exact h.processFrames hc _ hp
    · exact { h with }

/-- Every step keeps the invariant. -/
theorem StateOf.Inv.blockStep (hc : c.Lawful) (h : s.Inv c) : (Machine.blockStep c s).Inv c := by
  obtain ⟨-, he⟩ | ⟨w, ws, -, ⟨i, -, he⟩ | ⟨why, -, he⟩⟩ := blockStep_cases c s <;> rw [he]
  · exact h
  · exact (h.setInbox ws).command hc i
  · exact h.setInbox ws

/-- The reset state of a lawful configuration meets the invariant. -/
theorem StateOf.reset_inv (hc : c.Lawful) : (StateOf.reset c).Inv c where
  params := hc.pReset
  voices _ hv := List.eq_of_mem_replicate hv ▸ Voice.reset_inv hc
  nVoices := List.length_replicate
  cursor := hc.chunk
  chunkLength := List.length_replicate
  chunk _ hx :=
    have h0 := clipBound_nonneg hc hc.aMaster
    List.eq_of_mem_replicate hx ▸ ⟨neg_nonpos.mpr h0, h0⟩
  rate h := Bool.noConfusion h

end

/-- Settles O28: the block's step keeps the invariant at every lawful configuration. -/
theorem stepKeepsTheInvariant : Obligations.StepKeepsTheInvariant := by
  refine ⟨fun s t h ht => ?_, fun c s hc h => h.blockStep hc⟩
  obtain rfl : State.mk (blockStep std s.toStateOf) = t := by
    rw [step_eq] at ht
    exact Host.Outcome.next.inj ht
  exact StateOf.Inv.blockStep std_lawful h

/-- Settles O29: at every lawful configuration, the executable block's among them. -/
theorem resetMeetsTheInvariant : Obligations.ResetMeetsTheInvariant :=
  ⟨StateOf.reset_inv std_lawful, fun _ hc => StateOf.reset_inv hc⟩

/-- Settles O30: every voice after reset is the idle voice. -/
theorem resetLeavesTheBlockIdle : Obligations.ResetLeavesTheBlockIdle := by
  refine ⟨rfl, rfl, rfl, rfl, rfl, rfl, List.length_replicate, fun v hv => ?_⟩
  obtain rfl : v = Voice.reset std := List.eq_of_mem_replicate hv
  exact ⟨rfl, rfl, rfl, rfl, rfl, rfl, rfl, rfl, rfl, rfl, rfl, rfl, rfl, rfl, rfl⟩

/-- Settles O60: a draw is held to the range by its clamp. -/
theorem drawsAreBipolar : Obligations.DrawsAreBipolar := drawAt_isBipolar

end Sys2Proof.Machine
end

section
/-! SUPPORT. What no rule reads never reaches a frame (10_state.md R23, R28, R29, R33): two runs from states
that agree on everything else keep agreeing. -/

namespace Sys2Proof.Machine

set_option linter.unusedSectionVars false

section
variable {α : Type} [Field α] [LinearOrder α] [IsStrictOrderedRing α] [FloorRing α] (c : Config α)

/-! ### Agreement as an update of the unread parts -/

/-- The five registers without a reader replaced (10_state.md R23). -/
def Params.setUnread (p : Params α) (filterType : FilterType) (filterEnvMod glide : α)
    (voicingMode : Voicing) (masterVolume : α) : Params α :=
  { p with
    filterType := filterType
    filterEnvMod := filterEnvMod
    glide := glide
    voicingMode := voicingMode
    masterVolume := masterVolume }

/-- The seed and the oscillators' held values replaced (10_state.md R28, R29). -/
def Voice.setUnread (v : Voice α) (seed : Nat) (sh1 sh2 : α) : Voice α :=
  { v with
    seed := seed
    osc1 := ⟨v.osc1.phase, sh1⟩
    osc2 := ⟨v.osc2.phase, sh2⟩ }

theorem Params.agreeOnRead_iff {p q : Params α} :
    p.AgreeOnRead q ↔ ∃ ft em gl vm mv, q = p.setUnread ft em gl vm mv := by
  constructor
  · exact fun h => ⟨_, _, _, _, _, h.symm⟩
  · rintro ⟨ft, em, gl, vm, mv, rfl⟩
    rfl

theorem Voice.agreeOnRead_iff {v w : Voice α} :
    v.AgreeOnRead w ↔ ∃ seed sh1 sh2, w = v.setUnread seed sh1 sh2 := by
  constructor
  · exact fun h => ⟨_, _, _, h.symm⟩
  · rintro ⟨seed, sh1, sh2, rfl⟩
    rfl

theorem Voice.agreeOnRead_setUnread (v : Voice α) (seed : Nat) (sh1 sh2 : α) :
    v.AgreeOnRead (v.setUnread seed sh1 sh2) := rfl

/-! ### Rendering -/

/-- The held value does not enter the loop: only the held value it leaves can depend on it. -/
theorem oscLoop_sh (q : OscInput α) (xs : List α) (o : OscState α) (sh : α) (draws : Nat) :
    ∃ sh', oscLoop c q xs ⟨o.phase, sh⟩ draws =
      ((oscLoop c q xs o draws).1, ⟨(oscLoop c q xs o draws).2.1.phase, sh'⟩,
        (oscLoop c q xs o draws).2.2) := by
  induction xs generalizing o sh draws with
  | nil => exact ⟨sh, rfl⟩
  | cons x xs ih =>
    have hstep : ∀ d, ∃ sh'', oscAdvance c ⟨o.phase, sh⟩ q.dt d =
        (⟨(oscAdvance c o q.dt d).1.phase, sh''⟩, (oscAdvance c o q.dt d).2) := by
      intro d
      unfold oscAdvance
      split_ifs
      · exact ⟨_, rfl⟩
      · exact ⟨sh, rfl⟩
    obtain ⟨sh1, h1⟩ := hstep (oscSample c q.wave o.phase q.dt q.pw draws).2
    obtain ⟨sh2, h2⟩ := ih (oscAdvance c o q.dt (oscSample c q.wave o.phase q.dt q.pw draws).2).1 sh1
      (oscAdvance c o q.dt (oscSample c q.wave o.phase q.dt q.pw draws).2).2
    refine ⟨sh2, ?_⟩
    simp only [oscLoop, h1, h2]

theorem oscRender_sh (on : Bool) (q : OscInput α) (xs : List α) (o : OscState α) (sh : α) (draws : Nat) :
    ∃ sh', oscRender c on q xs ⟨o.phase, sh⟩ draws =
      ((oscRender c on q xs o draws).1, ⟨(oscRender c on q xs o draws).2.1.phase, sh'⟩,
        (oscRender c on q xs o draws).2.2) := by
  cases on with
  | true => exact oscLoop_sh c q xs o sh draws
  | false => exact ⟨sh, rfl⟩

section
variable {p q : Params α} {v w : Voice α}

/-- Two oscillator stages from agreeing registers and voices. -/
theorem voiceOscillators_agree (hp : p.AgreeOnRead q) (hv : v.AgreeOnRead w) (rate : α) (draws : Nat) :
    (voiceOscillators c q rate w draws).1 = (voiceOscillators c p rate v draws).1 ∧
      (voiceOscillators c p rate v draws).2.1.AgreeOnRead (voiceOscillators c q rate w draws).2.1 ∧
      (voiceOscillators c q rate w draws).2.2 = (voiceOscillators c p rate v draws).2.2 := by
  obtain ⟨ft, em, gl, vm, mv, rfl⟩ := Params.agreeOnRead_iff.mp hp
  obtain ⟨seed, sh1, sh2, rfl⟩ := Voice.agreeOnRead_iff.mp hv
  obtain ⟨sh1', h1⟩ := oscRender_sh c p.osc1On (osc1Input c p rate v) (silence c) v.osc1 sh1 draws
  obtain ⟨sh2', h2⟩ := oscRender_sh c p.osc2On (osc2Input c p rate v)
    (oscRender c p.osc1On (osc1Input c p rate v) (silence c) v.osc1 draws).1 v.osc2 sh2
    (oscRender c p.osc1On (osc1Input c p rate v) (silence c) v.osc1 draws).2.2
  have h : voiceOscillators c (p.setUnread ft em gl vm mv) rate (v.setUnread seed sh1 sh2) draws =
      ((voiceOscillators c p rate v draws).1,
        (voiceOscillators c p rate v draws).2.1.setUnread seed sh1' sh2',
        (voiceOscillators c p rate v draws).2.2) := by
    change (let (b1, o1, d1) := oscRender c p.osc1On (osc1Input c p rate v) (silence c) ⟨v.osc1.phase, sh1⟩ draws
      let (b2, o2, d2) := oscRender c p.osc2On (osc2Input c p rate v) b1 ⟨v.osc2.phase, sh2⟩ d1
      (b2, { v.setUnread seed sh1 sh2 with osc1 := o1, osc2 := o2 }, d2)) = _
    rw [h1]
    dsimp only
    rw [h2]
    rfl
  rw [h]
  exact ⟨rfl, Voice.agreeOnRead_setUnread _ _ _ _, rfl⟩

theorem voiceSnapshot_agree (hp : p.AgreeOnRead q) (hv : v.AgreeOnRead w) (rate : α) (draws : Nat) :
    (voiceSnapshot c p rate v draws).1.AgreeOnRead (voiceSnapshot c q rate w draws).1 ∧
      (voiceSnapshot c q rate w draws).2 = (voiceSnapshot c p rate v draws).2 := by
  obtain ⟨ft, em, gl, vm, mv, rfl⟩ := Params.agreeOnRead_iff.mp hp
  obtain ⟨seed, sh1, sh2, rfl⟩ := Voice.agreeOnRead_iff.mp hv
  exact ⟨rfl, rfl⟩

theorem voiceFilter_agree (hp : p.AgreeOnRead q) (hv : v.AgreeOnRead w) (rate : α) (scratch : List α) :
    (voiceFilter c q rate scratch w).1 = (voiceFilter c p rate scratch v).1 ∧
      (voiceFilter c p rate scratch v).2.AgreeOnRead (voiceFilter c q rate scratch w).2 := by
  obtain ⟨ft, em, gl, vm, mv, rfl⟩ := Params.agreeOnRead_iff.mp hp
  obtain ⟨seed, sh1, sh2, rfl⟩ := Voice.agreeOnRead_iff.mp hv
  exact ⟨rfl, rfl⟩

theorem voiceAmplify_agree (hv : v.AgreeOnRead w) (scratch : List α) :
    voiceAmplify w scratch = voiceAmplify v scratch := by
  obtain ⟨seed, sh1, sh2, rfl⟩ := Voice.agreeOnRead_iff.mp hv
  rfl

theorem voiceTime_agree (hv : v.AgreeOnRead w) (rate : α) :
    (voiceTime c rate v).AgreeOnRead (voiceTime c rate w) := by
  obtain ⟨seed, sh1, sh2, rfl⟩ := Voice.agreeOnRead_iff.mp hv
  unfold voiceTime
  change Voice.AgreeOnRead _ (if v.gateOn = true then _ else _)
  split_ifs <;> rfl

/-- A rendering from agreeing registers and voices: the same buffer and draws, and agreeing voices. -/
theorem voiceRender_agree (hp : p.AgreeOnRead q) (hv : v.AgreeOnRead w) (rate : α) (draws : Nat) :
    (voiceRender c q rate w draws).1 = (voiceRender c p rate v draws).1 ∧
      (voiceRender c p rate v draws).2.1.AgreeOnRead (voiceRender c q rate w draws).2.1 ∧
      (voiceRender c q rate w draws).2.2 = (voiceRender c p rate v draws).2.2 := by
  obtain ⟨hsnap, hdraws⟩ := voiceSnapshot_agree c hp hv rate draws
  obtain ⟨hbuf, hosc, hdraws2⟩ :=
    voiceOscillators_agree c hp hsnap rate (voiceSnapshot c p rate v draws).2
  unfold voiceRender
  dsimp only
  rw [hdraws, hbuf]
  obtain ⟨hout, hfilt⟩ := voiceFilter_agree c hp hosc rate
    (voiceOscillators c p rate (voiceSnapshot c p rate v draws).1 (voiceSnapshot c p rate v draws).2).1
  rw [hout]
  exact ⟨voiceAmplify_agree hfilt _, voiceTime_agree c hfilt rate, hdraws2⟩

end

/-- The whole pool from agreeing registers and voices. -/
theorem renderVoices_agree {p q : Params α} (hp : p.AgreeOnRead q) (rate : α) {vs ws : List (Voice α)}
    (hv : List.Forall₂ Voice.AgreeOnRead vs ws) (draws : Nat) :
    List.Forall₂ Voice.AgreeOnRead (renderVoices c p rate vs draws).1 (renderVoices c q rate ws draws).1 ∧
      (renderVoices c q rate ws draws).2.1 = (renderVoices c p rate vs draws).2.1 ∧
      (renderVoices c q rate ws draws).2.2 = (renderVoices c p rate vs draws).2.2 := by
  induction hv generalizing draws with
  | nil => exact ⟨.nil, rfl, rfl⟩
  | @cons v w vs ws hvw _ ih =>
    obtain ⟨hbuf, hvoice, hdraws⟩ := voiceRender_agree c hp hvw rate draws
    obtain ⟨hvoices, hsum, hdraws2⟩ := ih (voiceRender c p rate v draws).2.2
    simp only [renderVoices, hbuf, hdraws, hsum, hdraws2, and_true]
    exact .cons hvoice hvoices

/-! ### Agreeing states -/

/-- `State.AgreeOnRead` over any numbers. -/
structure StateOf.AgreeOnRead (s t : StateOf α) : Prop where
  params : s.params.AgreeOnRead t.params
  voices : List.Forall₂ Voice.AgreeOnRead s.voices t.voices
  rest : { s with params := t.params, voices := t.voices, maxFrames := t.maxFrames } = t

theorem State.agreeOnRead_iff {s t : State} : s.AgreeOnRead t ↔ s.toStateOf.AgreeOnRead t.toStateOf :=
  ⟨fun h => ⟨h.params, h.voices, congrArg State.toStateOf h.rest⟩,
    fun h => ⟨h.params, h.voices, congrArg State.mk h.rest⟩⟩

variable {s t : StateOf α}

theorem StateOf.agreeOnRead_iff : s.AgreeOnRead t ↔ ∃ q ws m, s.params.AgreeOnRead q ∧
    List.Forall₂ Voice.AgreeOnRead s.voices ws ∧ t = { s with params := q, voices := ws, maxFrames := m } := by
  constructor
  · exact fun h => ⟨_, _, _, h.params, h.voices, h.rest.symm⟩
  · rintro ⟨q, ws, m, hp, hv, rfl⟩
    exact ⟨hp, hv, rfl⟩

theorem StateOf.AgreeOnRead.frames (h : s.AgreeOnRead t) : s.frames = t.frames := by
  obtain ⟨q, ws, m, -, -, rfl⟩ := StateOf.agreeOnRead_iff.mp h
  rfl

theorem StateOf.AgreeOnRead.prepared (h : s.AgreeOnRead t) : s.prepared = t.prepared := by
  obtain ⟨q, ws, m, -, -, rfl⟩ := StateOf.agreeOnRead_iff.mp h
  rfl

theorem StateOf.AgreeOnRead.setVoices (h : s.AgreeOnRead t) {vs ws : List (Voice α)}
    (hv : List.Forall₂ Voice.AgreeOnRead vs ws) : (s.setVoices vs).AgreeOnRead (t.setVoices ws) := by
  obtain ⟨q, us, m, hp, -, rfl⟩ := StateOf.agreeOnRead_iff.mp h
  exact ⟨hp, hv, rfl⟩

/-! ### PROCESS -/

theorem StateOf.AgreeOnRead.regenerate (h : s.AgreeOnRead t) :
    (Machine.regenerate c s).AgreeOnRead (Machine.regenerate c t) := by
  obtain ⟨q, ws, m, hp, hv, rfl⟩ := StateOf.agreeOnRead_iff.mp h
  obtain ⟨hvoices, hsum, hdraws⟩ := renderVoices_agree c hp s.sampleRate hv s.drawCount
  refine ⟨hp, hvoices, ?_⟩
  unfold Machine.regenerate
  dsimp only
  rw [hsum, hdraws]
  rfl

theorem StateOf.AgreeOnRead.processFrame (h : s.AgreeOnRead t) :
    (Machine.processFrame c s).AgreeOnRead (Machine.processFrame c t) := by
  have hcursor : t.cursor = s.cursor := by rw [← h.rest]
  have h1 : (if s.cursor = 0 then Machine.regenerate c s else s).AgreeOnRead
      (if t.cursor = 0 then Machine.regenerate c t else t) := by
    rw [hcursor]
    split_ifs
    · exact h.regenerate c
    · exact h
  unfold Machine.processFrame
  dsimp only
  obtain ⟨q, ws, m, hp, hv, hst⟩ := StateOf.agreeOnRead_iff.mp h1
  rw [hst]
  exact ⟨hp, hv, rfl⟩

theorem StateOf.AgreeOnRead.processFrames (n : Nat) (h : s.AgreeOnRead t) :
    (Machine.processFrames c n s).AgreeOnRead (Machine.processFrames c n t) := by
  induction n generalizing s t with
  | zero => exact h
  | succ n ih => exact ih (h.processFrame c)

theorem StateOf.AgreeOnRead.processCommand (h : s.AgreeOnRead t) (a : Half) :
    (Machine.processCommand c a s).AgreeOnRead (Machine.processCommand c a t) := by
  unfold Machine.processCommand
  rw [← h.prepared]
  split_ifs
  · exact h.processFrames c _
  · obtain ⟨q, ws, m, hp, hv, rfl⟩ := StateOf.agreeOnRead_iff.mp h
    exact ⟨hp, hv, rfl⟩

/-! ### The other commands -/

theorem setSampleRates_agree (rate : α) {vs ws : List (Voice α)}
    (hv : List.Forall₂ Voice.AgreeOnRead vs ws) :
    List.Forall₂ Voice.AgreeOnRead (setSampleRates c rate vs) (setSampleRates c rate ws) := by
  refine List.forall₂_map_left_iff.mpr (List.forall₂_map_right_iff.mpr (hv.imp fun v w h => ?_))
  obtain ⟨seed, sh1, sh2, rfl⟩ := Voice.agreeOnRead_iff.mp h
  rfl

theorem StateOf.AgreeOnRead.prepareCommand (h : s.AgreeOnRead t) (f : F32) (a : Half) :
    (Machine.prepareCommand c f a s).AgreeOnRead (Machine.prepareCommand c f a t) := by
  unfold Machine.prepareCommand
  cases acceptedRate f with
  | none => exact h
  | some r =>
    obtain ⟨q, ws, m, hp, hv, rfl⟩ := StateOf.agreeOnRead_iff.mp h
    exact ⟨hp, setSampleRates_agree c _ hv, rfl⟩

/-- The same write to agreeing registers. -/
theorem Params.AgreeOnRead.write {p q : Params α} (h : p.AgreeOnRead q) (k : Nat) (x : ExtNum) :
    (p.write k x).AgreeOnRead (q.write k x) := by
  obtain ⟨ft, em, gl, vm, mv, rfl⟩ := Params.agreeOnRead_iff.mp h
  by_cases hk : k ≤ 32
  · interval_cases k <;> rfl
  · rw [Params.write_unmapped _ (by omega), Params.write_unmapped _ (by omega)]
    exact h

theorem StateOf.AgreeOnRead.setparamCommand (h : s.AgreeOnRead t) (k : Half) (x : F32) :
    (Machine.setparamCommand k x s).AgreeOnRead (Machine.setparamCommand k x t) := by
  unfold Machine.setparamCommand
  cases f32Value x with
  | none => exact h
  | some y =>
    obtain ⟨q, ws, m, hp, hv, rfl⟩ := StateOf.agreeOnRead_iff.mp h
    exact ⟨hp.write _ y, hv, rfl⟩

/-- A scan whose ranking agrees on two pools finds the same candidate. -/
theorem scanVoices_agree {rank : Voice α → Option α}
    (hrank : ∀ v w : Voice α, v.AgreeOnRead w → rank w = rank v) {vs ws : List (Voice α)}
    (hv : List.Forall₂ Voice.AgreeOnRead vs ws) (i : Nat) (best : Option (Candidate α)) :
    scanVoices rank ws i best = scanVoices rank vs i best := by
  induction hv generalizing i best with
  | nil => rfl
  | cons hvw _ ih => simp only [scanVoices, hrank _ _ hvw, ih]

theorem steal_agree {vs ws : List (Voice α)} (hv : List.Forall₂ Voice.AgreeOnRead vs ws) :
    steal ws = steal vs := by
  unfold steal
  rw [scanVoices_agree (rank := rankReleased) ?_ hv, scanVoices_agree (rank := rankSounding) ?_ hv] <;>
  · intro v w h
    obtain ⟨seed, sh1, sh2, rfl⟩ := Voice.agreeOnRead_iff.mp h
    rfl

theorem modify_agree {f : Voice α → Voice α} (hf : ∀ v w : Voice α, v.AgreeOnRead w → (f v).AgreeOnRead (f w))
    {vs ws : List (Voice α)} (hv : List.Forall₂ Voice.AgreeOnRead vs ws) (i : Nat) :
    List.Forall₂ Voice.AgreeOnRead (vs.modify i f) (ws.modify i f) := by
  induction hv generalizing i with
  | nil => simp
  | cons hvw hrest ih =>
    cases i with
    | zero => exact .cons (hf _ _ hvw) hrest
    | succ i => exact .cons hvw (ih i)

theorem StateOf.AgreeOnRead.noteonCommand (h : s.AgreeOnRead t) (a : Half) :
    (Machine.noteonCommand c a s).AgreeOnRead (Machine.noteonCommand c a t) := by
  unfold Machine.noteonCommand
  cases noteOperand a with
  | none => exact h
  | some n =>
    dsimp only
    rw [← h.prepared]
    split_ifs
    · obtain ⟨q, ws, m, hp, hv, rfl⟩ := StateOf.agreeOnRead_iff.mp h
      refine ⟨hp, ?_, rfl⟩
      change List.Forall₂ _ (s.voices.modify (steal s.voices) _) (ws.modify (steal ws) _)
      rw [steal_agree hv]
      refine modify_agree (fun v w hvw => ?_) hv _
      obtain ⟨seed, sh1, sh2, rfl⟩ := Voice.agreeOnRead_iff.mp hvw
      rfl
    · exact h

theorem StateOf.AgreeOnRead.noteoffCommand (h : s.AgreeOnRead t) (a : Half) :
    (Machine.noteoffCommand a s).AgreeOnRead (Machine.noteoffCommand a t) := by
  unfold Machine.noteoffCommand
  cases noteOperand a with
  | none => exact h
  | some n =>
    refine h.setVoices ?_
    refine List.forall₂_map_left_iff.mpr (List.forall₂_map_right_iff.mpr (h.voices.imp fun v w hvw => ?_))
    obtain ⟨seed, sh1, sh2, rfl⟩ := Voice.agreeOnRead_iff.mp hvw
    change Voice.AgreeOnRead _ (if v.note = n then _ else _)
    split_ifs <;> rfl

/-- Agreeing states agree after every command. -/
theorem StateOf.AgreeOnRead.command (h : s.AgreeOnRead t) (i : Instr) :
    (Machine.command c i s).AgreeOnRead (Machine.command c i t) := by
  cases i with
  | prepare f a => exact h.prepareCommand c f a
  | setparam k x => exact h.setparamCommand k x
  | noteon a f => exact h.noteonCommand c a
  | noteoff a => exact h.noteoffCommand a
  | process a => exact h.processCommand c a

end

/-- Settles O31: every command keeps the agreement, which has equal frames. -/
theorem unreadStateNeverReachesAFrame : Obligations.UnreadStateNeverReachesAFrame := by
  intro i s t s' t' h hs ht
  rw [exec_eq] at hs ht
  obtain rfl := Host.Outcome.next.inj hs
  obtain rfl := Host.Outcome.next.inj ht
  have hnext := (State.agreeOnRead_iff.mp h).command std i
  exact ⟨State.agreeOnRead_iff.mpr hnext, hnext.frames⟩

end Sys2Proof.Machine
end

section
/-! SUPPORT. PROCESS: its frames, the chunk it hands out, a regeneration voice by voice, and its continuity
(47_engine_commands.md R285, R286, R288). -/

namespace Sys2Proof.Machine

set_option linter.unusedSectionVars false

section
variable {α : Type} [Field α] [LinearOrder α] [IsStrictOrderedRing α] [FloorRing α] (c : Config α)
variable {s : StateOf α}

/-! ### The frames and the cursor -/

theorem processFrames_frames (n : Nat) (s : StateOf α) : ∃ new : List Frame,
    (processFrames c n s).frames = new ++ s.frames ∧ new.length = n ∧ ∀ f ∈ new, f.right = f.left := by
  induction n generalizing s with
  | zero => exact ⟨[], rfl, rfl, by simp⟩
  | succ n ih =>
    obtain ⟨x, hx⟩ := processFrame_frames c s
    obtain ⟨new, hnew, hlen, hmono⟩ := ih (processFrame c s)
    refine ⟨new ++ [⟨x, x⟩], ?_, by simp [hlen], ?_⟩
    · rw [processFrames, hnew, hx, List.append_assoc]
      rfl
    · simpa [or_imp, forall_and] using hmono

theorem processFrames_cursor (n : Nat) (h : s.cursor < c.chunk) :
    (processFrames c n s).cursor = (s.cursor + n) % c.chunk := by
  induction n generalizing s with
  | zero => exact (Nat.mod_eq_of_lt h).symm
  | succ n ih =>
    have hnext := processFrame_cursor c s
    rw [processFrames, ih (hnext ▸ Nat.mod_lt _ (Nat.zero_lt_of_lt h)), hnext, Nat.mod_add_mod,
      Nat.add_assoc, Nat.add_comm 1 n]

/-! ### Handing out a chunk -/

/-- A frame of one chunk entry. -/
def monoFrame (x : α) : Frame := ⟨toF32 x, toF32 x⟩

/-- `n` entries of the current chunk emitted from the cursor on. -/
def handOut (n : Nat) (s : StateOf α) : StateOf α :=
  { s with
    cursor := (s.cursor + n) % c.chunk
    frames := (((s.chunk.drop s.cursor).take n).map monoFrame).reverse ++ s.frames }

theorem handOut_zero (h : s.cursor < c.chunk) : handOut c 0 s = s := by
  simp [handOut, Nat.mod_eq_of_lt h]

/-- Emitting the entry at the cursor of a state that has handed out `n` entries. -/
theorem emit_handOut (hlen : s.chunk.length = c.chunk) {n : Nat} (hlt : s.cursor + n < c.chunk) :
    ((handOut c n s).emit (toF32 (handOut c n s).chunkSample)).advanceCursor c = handOut c (n + 1) s := by
  have hcursor : (handOut c n s).cursor = s.cursor + n := Nat.mod_eq_of_lt hlt
  have hentry : (s.chunk.drop s.cursor)[n]? = some ((handOut c n s).chunkSample) := by
    rw [StateOf.chunkSample, hcursor, List.getElem?_drop]
    change _ = some (s.chunk.getD (s.cursor + n) 0)
    rw [List.getD_eq_getElem?_getD, List.getElem?_eq_getElem (hlen ▸ hlt)]
    rfl
  have hframes : (handOut c (n + 1) s).frames =
      monoFrame (handOut c n s).chunkSample :: (handOut c n s).frames := by
    simp [handOut, List.take_add_one, hentry, -List.getElem?_drop]
  have hstate : handOut c (n + 1) s =
      { s with cursor := ((s.cursor + n) % c.chunk + 1) % c.chunk, frames := (handOut c (n + 1) s).frames } := by
    rw [Nat.mod_add_mod]
    rfl
  rw [hstate, hframes]
  rfl

theorem processFrame_handOut (hlen : s.chunk.length = c.chunk) {n : Nat} (h0 : 0 < s.cursor + n)
    (hlt : s.cursor + n < c.chunk) : processFrame c (handOut c n s) = handOut c (n + 1) s := by
  have hcursor : (handOut c n s).cursor = s.cursor + n := Nat.mod_eq_of_lt hlt
  rw [processFrame_of_cursor_ne_zero c (hcursor ▸ h0.ne'), emit_handOut c hlen hlt]

/-- Inside a chunk the frame loop hands out its entries. -/
theorem processFrames_inside (hlen : s.chunk.length = c.chunk) (h0 : 0 < s.cursor) (hlt : s.cursor < c.chunk)
    {n : Nat} (hn : s.cursor + n ≤ c.chunk) : processFrames c n s = handOut c n s := by
  induction n with
  | zero => exact (handOut_zero c hlt).symm
  | succ n ih =>
    rw [processFrames_add c n 1, ih (by omega)]
    exact processFrame_handOut c hlen (by omega) (by omega)

/-- At cursor 0 the frame loop regenerates once and hands out the new chunk. -/
theorem processFrames_start (h0 : s.cursor = 0) {n : Nat} (hn : n + 1 ≤ c.chunk) :
    processFrames c (n + 1) s = handOut c (n + 1) (regenerate c s) := by
  have hcursor : (regenerate c s).cursor = 0 := h0
  induction n with
  | zero =>
    change processFrame c s = _
    rw [processFrame_of_cursor_zero c h0, ← emit_handOut c (regenerate_chunk_length c s) (by omega),
      handOut_zero c (by omega)]
  | succ n ih =>
    rw [processFrames_add c (n + 1) 1, ih (by omega)]
    exact processFrame_handOut c (regenerate_chunk_length c s) (by omega) (by omega)

/-! ### A regeneration, voice by voice -/

/-- The draws taken before voice `i` is rendered. -/
def drawsBefore (p : Params α) (rate : α) : List (Voice α) → Nat → Nat → Nat
  | [], draws, _ => draws
  | _ :: _, draws, 0 => draws
  | v :: vs, draws, i + 1 => drawsBefore p rate vs (voiceRender c p rate v draws).2.2 i

section
variable (p : Params α) (rate : α)

@[simp] theorem drawsBefore_zero (vs : List (Voice α)) (draws : Nat) :
    drawsBefore c p rate vs draws 0 = draws := by cases vs <;> rfl

theorem renderVoices_draws (vs : List (Voice α)) (draws : Nat) :
    (renderVoices c p rate vs draws).2.2 = drawsBefore c p rate vs draws vs.length := by
  induction vs generalizing draws with
  | nil => rfl
  | cons v vs ih => exact ih _

/-- Voice `i` is rendered from its own state, with the draws that the voices before it left. -/
theorem renderVoices_getElem? {vs : List (Voice α)} {i : Nat} {v : Voice α} (h : vs[i]? = some v)
    (draws : Nat) :
    (renderVoices c p rate vs draws).1[i]? =
        some (voiceRender c p rate v (drawsBefore c p rate vs draws i)).2.1 ∧
      drawsBefore c p rate vs draws (i + 1) =
        (voiceRender c p rate v (drawsBefore c p rate vs draws i)).2.2 := by
  induction vs generalizing draws i with
  | nil => cases h
  | cons w vs ih =>
    cases i with
    | zero =>
      obtain rfl : w = v := Option.some.inj h
      exact ⟨rfl, drawsBefore_zero c p rate vs _⟩
    | succ i => exact ih h _

/-- The sample that voice `vi.1`, at index `vi.2` of the pool, adds to entry `n` of the buffer. -/
def voiceShare (draws : Nat → Nat) (n : Nat) (vi : Voice α × Nat) : α :=
  (voiceRender c p rate vi.1 (draws vi.2)).1.getD n 0

theorem getD_zipWith_add {xs ys : List α} {n : Nat} (hx : n < xs.length) (hy : n < ys.length) :
    (List.zipWith (· + ·) xs ys).getD n 0 = xs.getD n 0 + ys.getD n 0 := by
  rw [List.getD_eq_getElem _ _ (by simp [hx, hy]), List.getD_eq_getElem _ _ hx,
    List.getD_eq_getElem _ _ hy, List.getElem_zipWith]

/-- An entry of the pool's buffer is the sum of the voices' shares. -/
theorem renderVoices_sum {n : Nat} (hn : n < c.chunk) (vs : List (Voice α)) (draws : Nat) :
    (renderVoices c p rate vs draws).2.1.getD n 0 =
      (vs.zipIdx.map (voiceShare c p rate (drawsBefore c p rate vs draws) n)).sum := by
  induction vs generalizing draws with
  | nil => simp [renderVoices, silence, hn]
  | cons v vs ih =>
    have hshift : (vs.zipIdx 1).map (voiceShare c p rate (drawsBefore c p rate (v :: vs) draws) n) =
        vs.zipIdx.map (voiceShare c p rate
          (drawsBefore c p rate vs (voiceRender c p rate v draws).2.2) n) := by
      rw [List.zipIdx_succ, List.map_map]
      rfl
    rw [List.zipIdx_cons, List.map_cons, List.sum_cons, Nat.zero_add, hshift, ← ih]
    simp only [renderVoices]
    rw [getD_zipWith_add (by rw [voiceRender_length]; exact hn)
      (by rw [renderVoices_buffer_length]; exact hn)]
    rfl

end

theorem regenerate_entry (s : StateOf α) {n : Nat} (hn : n < c.chunk) :
    (regenerate c s).chunk.getD n 0 = mixSample c
      ((s.voices.zipIdx.map (voiceShare c s.params s.sampleRate
        (drawsBefore c s.params s.sampleRate s.voices s.drawCount) n)).sum) := by
  have hlen : n < (renderVoices c s.params s.sampleRate s.voices s.drawCount).2.1.length :=
    (renderVoices_buffer_length c _ _ _ _).symm ▸ hn
  rw [← renderVoices_sum c _ _ hn, regenerate_chunk, List.getD_eq_getElem _ _ (by simpa using hlen),
    List.getD_eq_getElem _ _ hlen, List.getElem_map]

/-! ### Continuity -/

/-- PROCESS of `n` frames, `n` any number. -/
def processCount (n : Nat) (s : StateOf α) : StateOf α :=
  if s.prepared then processFrames c n s else s.emitSilence n

theorem processCommand_eq_processCount (a : Half) (s : StateOf α) :
    processCommand c a s = processCount c a.toNat s := rfl

theorem processFrames_setInbox (n : Nat) (s : StateOf α) (ws : List Word) :
    processFrames c n (s.setInbox ws) = (processFrames c n s).setInbox ws := by
  induction n generalizing s with
  | zero => rfl
  | succ n ih =>
    have hframe : processFrame c (s.setInbox ws) = (processFrame c s).setInbox ws := by
      by_cases h : s.cursor = 0
      · rw [processFrame_of_cursor_zero c h, processFrame_of_cursor_zero c (s := s.setInbox ws) h]
        rfl
      · rw [processFrame_of_cursor_ne_zero c h, processFrame_of_cursor_ne_zero c (s := s.setInbox ws) h]
        rfl
    rw [processFrames, hframe, ih]
    rfl

theorem processCount_setInbox (n : Nat) (s : StateOf α) (ws : List Word) :
    processCount c n (s.setInbox ws) = (processCount c n s).setInbox ws := by
  unfold processCount
  change (if s.prepared = true then _ else _) = _
  split_ifs
  · exact processFrames_setInbox c n s ws
  · rfl

theorem processCount_add (m n : Nat) (s : StateOf α) :
    processCount c (m + n) s = processCount c n (processCount c m s) := by
  unfold processCount
  cases hp : s.prepared with
  | true =>
    obtain ⟨-, hkept, -⟩ := processFrames_keeps c m s
    simp [hkept, hp, processFrames_add]
  | false =>
    simp only [StateOf.emitSilence_prepared, hp, Bool.false_eq_true, if_false]
    simp [StateOf.emitSilence, ← List.append_assoc, Nat.add_comm m n]

theorem processCount_zero (s : StateOf α) : processCount c 0 s = s := by
  unfold processCount
  split_ifs <;> rfl

end

/-! ### The executable block -/

/-- Settles O20: the frames and the cursor of the frame loop. -/
theorem processEmitsExactlyItsFrames : Obligations.ProcessEmitsExactlyItsFrames := by
  intro a s hp hlt
  obtain ⟨new, hnew, hlen, hmono⟩ := processFrames_frames std a.toNat s.toStateOf
  have h : command std (.process a) s.toStateOf = processFrames std a.toNat s.toStateOf :=
    processCommand_prepared std hp a
  refine ⟨⟨processFrames std a.toNat s.toStateOf⟩, new, ?_, hnew, hlen, hmono,
    processFrames_cursor std _ hlt⟩
  rw [exec_eq, h]

/-- Settles O21: the frame loop inside a chunk. -/
theorem processHandsOutTheChunkRemainder : Obligations.ProcessHandsOutTheChunkRemainder := by
  intro a s hp hlen h0 hlt hn
  have h : command std (.process a) s.toStateOf = handOut std a.toNat s.toStateOf :=
    (processCommand_prepared std hp a).trans (processFrames_inside std hlen h0 hlt hn)
  rw [exec_eq, h]
  rfl

/-- Settles O22: the frame loop from the start of a chunk. -/
theorem processAtCursorZeroRegeneratesOnce : Obligations.ProcessAtCursorZeroRegeneratesOnce := by
  intro a s hp h0 hpos hn
  obtain ⟨m, hm⟩ := Nat.exists_eq_add_of_lt hpos
  rw [Nat.zero_add] at hm
  have h : command std (.process a) s.toStateOf = handOut std a.toNat (regenerate std s.toStateOf) := by
    refine (processCommand_prepared std hp a).trans ?_
    rw [hm] at hn ⊢
    exact processFrames_start std h0 hn
  rw [exec_eq, h, handOut, regenerate_cursor, h0, Nat.zero_add]
  rfl

/-- Settles O23: the draws before each voice are those of the voices rendered earlier. -/
theorem chunkIsTheClippedSumOfTheVoices : Obligations.ChunkIsTheClippedSumOfTheVoices := by
  intro s
  exact ⟨drawsBefore std s.params s.sampleRate s.voices s.drawCount, drawsBefore_zero std _ _ _ _,
    renderVoices_draws std _ _ _ _, regenerate_voices_length std s,
    fun i v hv => renderVoices_getElem? std _ _ hv _, regenerate_chunk_length std s,
    fun n hn => regenerate_entry std s hn, rfl⟩

theorem run_of_step {M : Host.Core} {s t : M.State} (h : M.step s = .next t) (k : Nat) :
    M.run (k + 1) s = M.run k t := by simp only [Host.Core.run, h]

/-- A run over PROCESS words is one PROCESS of their sum. -/
theorem run_process (counts : List Half) (rest : List Word) (s : State)
    (h : s.inbox = counts.map (fun a => encode (.process a)) ++ rest) :
    Sys2Proof.core.run counts.length s =
      .next ⟨processCount std (counts.map BitVec.toNat).sum (s.toStateOf.setInbox rest)⟩ := by
  induction counts generalizing s with
  | nil =>
    obtain rfl : s.inbox = rest := h
    exact congrArg (fun t => Host.Outcome.next (State.mk t)) (processCount_zero std s.toStateOf).symm
  | cons a counts ih =>
    have hstep : Sys2Proof.core.step s = .next ⟨processCount std a.toNat (s.toStateOf.setInbox
        (counts.map (fun a => encode (.process a)) ++ rest))⟩ := by
      refine (step_legal h (decode_encode rfl)).trans ?_
      rw [exec_eq]
      rfl
    refine (run_of_step hstep counts.length).trans ?_
    rw [processCount_setInbox]
    refine (ih _ rfl).trans ?_
    rw [List.map_cons, List.sum_cons, processCount_add, processCount_setInbox std a.toNat]
    rfl

/-- Settles O24: both sides are one PROCESS of the sum. -/
theorem splittingProcessChangesNothing : Obligations.SplittingProcessChangesNothing := by
  intro counts rest s hsum hs
  rw [run_process counts rest s hs, exec_eq]
  change _ = Host.Outcome.next (State.mk (processCount std
    (BitVec.ofNat 16 (counts.map BitVec.toNat).sum).toNat (s.toStateOf.setInbox rest)))
  rw [BitVec.toNat_ofNat, Nat.mod_eq_of_lt hsum]
  rfl

end Sys2Proof.Machine
end

section
/-! SUPPORT. A rendering, whole, and silence (46_voice.md R263, R264, 42_filter.md R161, R167,
47_engine_commands.md R291, 70_reset_and_hazards.md R354). -/

namespace Sys2Proof.Machine

set_option linter.unusedSectionVars false

section
variable {α : Type} [Field α] [LinearOrder α] [IsStrictOrderedRing α] [FloorRing α] (c : Config α)

/-! ### The uptimes -/

/-- Only the uptime that matches the gate advances. -/
theorem voiceTime_eq (rate : α) (v : Voice α) : voiceTime c rate v =
    { v with
      gateOnUptime := if v.gateOn = true then v.gateOnUptime + (c.chunk : α) / rate else v.gateOnUptime
      gateOffUptime := if v.gateOn = true then v.gateOffUptime else v.gateOffUptime + (c.chunk : α) / rate } := by
  unfold voiceTime
  split_ifs <;> rfl

section
variable (p : Params α) (rate : α) (v : Voice α) (draws : Nat)

theorem voiceRender_gateOnUptime : (voiceRender c p rate v draws).2.1.gateOnUptime =
    if v.gateOn = true then v.gateOnUptime + (c.chunk : α) / rate else v.gateOnUptime := by
  simp only [voiceRender, voiceTime_eq]
  rfl

theorem voiceRender_gateOffUptime : (voiceRender c p rate v draws).2.1.gateOffUptime =
    if v.gateOn = true then v.gateOffUptime else v.gateOffUptime + (c.chunk : α) / rate := by
  simp only [voiceRender, voiceTime_eq]
  rfl

end

/-! ### Silent buffers -/

/-- Every sample that a rendering leaves carries the click gain of the snapshot. -/
theorem voiceRender_buffer (p : Params α) (rate : α) (v : Voice α) (draws : Nat) : ∃ xs level,
    (voiceRender c p rate v draws).1 =
      List.map (fun x => x * (level * clickGainOf c v.gateOn v.gateOnUptime)) xs := ⟨_, _, rfl⟩

/-- A rendering whose click gain is 0 leaves a silent buffer. -/
theorem voiceRender_of_clickGain (p : Params α) (rate : α) {v : Voice α}
    (h : clickGainOf c v.gateOn v.gateOnUptime = 0) (draws : Nat) :
    (voiceRender c p rate v draws).1 = silence c := by
  obtain ⟨xs, level, hxs⟩ := voiceRender_buffer c p rate v draws
  refine List.eq_replicate_iff.mpr ⟨voiceRender_length c p rate v draws, fun y hy => ?_⟩
  rw [hxs, h] at hy
  obtain ⟨x, -, rfl⟩ := List.mem_map.mp hy
  rw [mul_zero, mul_zero]

theorem voiceAmplify_replicate_zero (v : Voice α) (n : Nat) :
    voiceAmplify v (List.replicate n 0) = List.replicate n 0 := by
  simp [voiceAmplify]

theorem filterReset_eq_self_iff {f : FilterState α} :
    filterReset f = f ↔ f.z1 = 0 ∧ f.z2 = 0 ∧ f.prevOut = 0 ∧ f.hpLp = 0 := by
  obtain ⟨z1, z2, prevOut, hpLp, hpG⟩ := f
  simp [filterReset, eq_comm]

section
variable {c}

/-- A reset filter given 0 answers 0 and stays reset (R161, R167). -/
theorem filterSample_reset (hclip : ∀ a, softClip c 0 a = 0) (hstore : c.num.store 0 = 0)
    (q : FilterInput α) (f : FilterState α) :
    filterSample c q (filterReset f) 0 = (0, filterReset f) := by
  simp [filterSample, filterReset, hclip, hstore]

theorem filterLoop_reset (hclip : ∀ a, softClip c 0 a = 0) (hstore : c.num.store 0 = 0)
    (q : FilterInput α) (f : FilterState α) (n : Nat) :
    filterLoop c q (List.replicate n 0) (filterReset f) = (List.replicate n 0, filterReset f) := by
  induction n with
  | zero => rfl
  | succ n ih => simp only [List.replicate_succ, filterLoop, filterSample_reset hclip hstore, ih]

variable (hc : c.Lawful)
include hc

theorem filterProcess_reset (on : Bool) (q : FilterInput α) {f : FilterState α} (hf : filterReset f = f)
    (n : Nat) : filterProcess c on q (List.replicate n 0) f = (List.replicate n 0, f) := by
  cases on with
  | true => exact hf ▸ filterLoop_reset (softClip_zero hc) (store_zero hc.num) q f n
  | false => rfl

/-- With both oscillators off and a reset filter, a voice renders silence and keeps its filter. -/
theorem voiceRender_silent {p : Params α} (h1 : p.osc1On = false) (h2 : p.osc2On = false) (rate : α)
    {v : Voice α} (hf : filterReset v.filt = v.filt) (draws : Nat) :
    (voiceRender c p rate v draws).1 = silence c ∧ (voiceRender c p rate v draws).2.1.filt = v.filt := by
  have hosc : voiceOscillators c p rate (voiceSnapshot c p rate v draws).1
      (voiceSnapshot c p rate v draws).2 =
      (silence c, (voiceSnapshot c p rate v draws).1, (voiceSnapshot c p rate v draws).2) := by
    simp only [voiceOscillators, oscRender, h1, h2]
    rfl
  simp only [voiceRender, hosc, voiceFilter, voiceSnapshot_filt]
  rw [silence, filterProcess_reset hc _ _ hf, voiceAmplify_replicate_zero]
  exact ⟨rfl, by rw [voiceTime_eq]⟩

/-- A pool of such voices renders silence and keeps the filters reset. -/
theorem renderVoices_silent {p : Params α} (h1 : p.osc1On = false) (h2 : p.osc2On = false) (rate : α)
    {vs : List (Voice α)} (hf : ∀ v ∈ vs, filterReset v.filt = v.filt) (draws : Nat) :
    (renderVoices c p rate vs draws).2.1 = silence c ∧
      ∀ v ∈ (renderVoices c p rate vs draws).1, filterReset v.filt = v.filt := by
  induction vs generalizing draws with
  | nil => exact ⟨rfl, hf⟩
  | cons v vs ih =>
    obtain ⟨hv, hvs⟩ := List.forall_mem_cons.mp hf
    obtain ⟨hbuf, hfilt⟩ := voiceRender_silent hc h1 h2 rate hv draws
    obtain ⟨hsum, hrest⟩ := ih hvs (voiceRender c p rate v draws).2.2
    have hkept : filterReset (voiceRender c p rate v draws).2.1.filt =
        (voiceRender c p rate v draws).2.1.filt := by rw [hfilt]; exact hv
    refine ⟨?_, List.forall_mem_cons.mpr ⟨hkept, hrest⟩⟩
    simp [renderVoices, hbuf, hsum, silence]

omit hc in
/-- R291's silent states: both oscillators off, no filter tail, no rendered remainder. -/
structure StateOf.Silent (s : StateOf α) : Prop where
  osc1Off : s.params.osc1On = false
  osc2Off : s.params.osc2On = false
  filters : ∀ v ∈ s.voices, filterReset v.filt = v.filt
  chunk : ∀ x ∈ s.chunk, x = 0

variable {s : StateOf α}

theorem mixSample_zero : mixSample c 0 = 0 := by rw [mixSample, zero_mul, softClip_zero hc]

theorem StateOf.Silent.regenerate (h : s.Silent) : (Machine.regenerate c s).Silent := by
  obtain ⟨hsum, hfilters⟩ := renderVoices_silent hc h.osc1Off h.osc2Off s.sampleRate h.filters s.drawCount
  refine ⟨h.osc1Off, h.osc2Off, hfilters, fun x hx => ?_⟩
  rw [regenerate_chunk, hsum, silence, List.map_replicate, mixSample_zero hc] at hx
  exact List.eq_of_mem_replicate hx

omit hc in
theorem StateOf.Silent.chunkSample (h : s.Silent) : s.chunkSample = 0 := by
  unfold StateOf.chunkSample
  by_cases hlt : s.cursor < s.chunk.length
  · rw [List.getD_eq_getElem _ _ hlt]
    exact h.chunk _ (List.getElem_mem hlt)
  · exact List.getD_eq_default _ _ (not_lt.mp hlt)

/-- A frame of a silent state is zero, and the state stays silent. -/
theorem StateOf.Silent.processFrame (h : s.Silent) :
    (Machine.processFrame c s).Silent ∧ (Machine.processFrame c s).frames = ⟨0, 0⟩ :: s.frames := by
  have h1 : (if s.cursor = 0 then Machine.regenerate c s else s).Silent ∧
      (if s.cursor = 0 then Machine.regenerate c s else s).frames = s.frames := by
    split_ifs
    · exact ⟨h.regenerate hc, rfl⟩
    · exact ⟨h, rfl⟩
  obtain ⟨hs, hframes⟩ := h1
  unfold Machine.processFrame
  dsimp only
  rw [hs.chunkSample]
  refine ⟨{ hs with }, ?_⟩
  rw [StateOf.advanceCursor_frames, StateOf.emit_frames, hframes, toF32, if_pos rfl]

theorem StateOf.Silent.processFrames (n : Nat) (h : s.Silent) :
    (Machine.processFrames c n s).frames = List.replicate n ⟨0, 0⟩ ++ s.frames := by
  induction n generalizing s with
  | zero => rfl
  | succ n ih =>
    obtain ⟨hnext, hframes⟩ := h.processFrame hc
    rw [Machine.processFrames, ih hnext, hframes, List.replicate_succ', List.append_assoc]
    rfl

end

end

/-! ### The executable block -/

/-- Settles O33: prepared, by the silent states' frames; unprepared, by PROCESS before PREPARE. -/
theorem oscillatorsOffMeansSilence : Obligations.OscillatorsOffMeansSilence := by
  intro a s h1 h2 hfilters hchunk
  have hsilent : s.toStateOf.Silent :=
    ⟨h1, h2, fun v hv => filterReset_eq_self_iff.mpr (hfilters v hv), hchunk⟩
  refine ⟨_, exec_eq _ s, ?_⟩
  obtain ⟨-, h⟩ | ⟨-, h⟩ := processCommand_cases std a s.toStateOf
  · exact (congrArg StateOf.frames h).trans (hsilent.processFrames std_lawful a.toNat)
  · exact congrArg StateOf.frames h

/-- Settles O34: the click gain is 0 at an uptime of 0. -/
theorem firstChunkOfANoteIsSilent : Obligations.FirstChunkOfANoteIsSilent := by
  intro p rate v draws hgate huptime
  refine voiceRender_of_clickGain std p rate ?_ draws
  rw [hgate, huptime]
  exact clickGainOf_zero std_lawful (by norm_num [std, standard])

/-- Settles O35: the two uptimes of a rendering, and what it keeps. -/
theorem renderAdvancesTheMatchingUptime : Obligations.RenderAdvancesTheMatchingUptime := by
  rintro p rate v w draws rfl
  rw [voiceRender_gateOnUptime, voiceRender_gateOffUptime]
  refine ⟨fun hgate => ?_, fun hgate => ?_, voiceRender_keeps std p rate v draws⟩ <;> simp [hgate]

/-- Settles O47: at both arithmetics storing and clipping keep 0. -/
theorem resetFilterKeepsSilence : Obligations.ResetFilterKeepsSilence := by
  refine ⟨filterLoop_reset (softClip_zero std_lawful) (store_zero ratNum_assumed),
    fun nVoices chunk osc2Pw p draw seed => filterLoop_reset (fun a => ?_) rfl⟩
  have hreal : (standard realNum (fun _ => 0) (fun _ => 0)).Lawful :=
    standard_lawful realNum_exact.toAssumed (fun _ => ⟨by norm_num, zero_le_one⟩) _
  exact softClip_zero hreal a

/-! ### A rendering, whole -/

section
variable (p : Params Scalar) (rate : Scalar) (v : Voice Scalar) (draws : Nat)

theorem ampInput_std : ampInput std p =
    ⟨p.ampOn, p.ampAttack ^ 2 * 3, p.ampDecay ^ 2 * 3, p.ampSustain, p.ampRelease ^ 2 * 3⟩ := by
  simp only [sq]
  rfl

theorem modInput_std : modInput std p =
    ⟨p.modOn, p.modAttack ^ 2 * 3, p.modDecay ^ 2 * 3, 0, p.modDecay ^ 2 * 3⟩ := by
  simp only [sq]
  rfl

theorem lfoIncrement_std (x : Scalar) :
    lfoIncrement std x rate = (1 / 100 + (10 - 1 / 100) * x) / rate * 32 := rfl

theorem osc2DetuneSemitones_std :
    osc2DetuneSemitones std p v = routeUnary std p v p.osc2Detune .osc2Detune ^ 2 := (sq _).symm

theorem resonanceQ_eq (x : Scalar) : resonanceQ x = 1 / 2 + x * (4 / 10) * (39 / 2) := by
  norm_num [resonanceQ]

end

/-- Settles O36: the stages of the rendering, with the configuration's numbers put in. -/
theorem renderTakesItsSnapshotFirst : Obligations.RenderTakesItsSnapshotFirst := by
  rintro p rate v v1 draws d1 freq1 freq2 det cut peak r1 r2 r3 hv1 hd1 rfl rfl rfl hr1 hr2 rfl rfl hr3
  have hsnap : voiceSnapshot std p rate v draws = (v1, d1) := by
    rw [hv1, hd1, ← ampInput_std, ← modInput_std, ← lfoIncrement_std]
    rfl
  have hosc1 : oscRender std p.osc1On (osc1Input std p rate v1) (silence std) v1.osc1 d1 = r1 := by
    rw [hr1, hv1]
    rfl
  have hosc2 : oscRender std p.osc2On (osc2Input std p rate v1) r1.1 v1.osc2 r1.2.2 = r2 := by
    rw [hr2, ← osc2DetuneSemitones_std, hv1]
    rfl
  have hfilt : filterProcess std p.filterOn (filterInput std p rate v1) r2.1 v1.filt = r3 := by
    rw [hr3, ← resonanceQ_eq, hv1]
    rfl
  have hstage2 : voiceOscillators std p rate v1 d1 =
      (r2.1, { v1 with osc1 := r1.2.1, osc2 := r2.2.1 }, r2.2.2) := by
    simp only [voiceOscillators, hosc1, hosc2]
  have hstage3 : voiceFilter std p rate r2.1 { v1 with osc1 := r1.2.1, osc2 := r2.2.1 } =
      (r3.1, { v1 with osc1 := r1.2.1, osc2 := r2.2.1, filt := r3.2 }) :=
    congrArg (fun r => (r.1, { v1 with osc1 := r1.2.1, osc2 := r2.2.1, filt := r.2 })) hfilt
  simp only [voiceRender, hsnap, hstage2, hstage3, voiceTime_eq]
  rw [hv1]
  rfl

end Sys2Proof.Machine
end

section
/-! SUPPORT. The envelope, the click gain, the LFO's shapes, the router and the octave register
(43_envelope.md R193 to R198, 44_lfo.md R223, R225, 45_modulation_router.md R242, R243, 41_oscillator.md
R132). -/

namespace Sys2Proof.Machine

set_option linter.unusedSectionVars false

/-! ### The ease -/

section
variable {α : Type} [Field α] [LinearOrder α] [IsStrictOrderedRing α] [FloorRing α] {N : Numerics α} (hN : N.Assumed)
include hN

theorem pow2_nine : N.pow2 9 = 512 := by
  have h := hN.pow2_add_int 0 9
  rw [hN.pow2_zero] at h
  norm_num at h
  exact h

/-- R109 at the curve parameter 1/2, whose scaler is 9. -/
theorem ease_half (u : α) : ease N (1 / 2) u = 1 - (N.pow2 (9 * (1 - u)) - 1) / 511 := by
  rw [ease, easeScaler_half, pow2_nine hN]
  norm_num

theorem ease_half_zero : ease N (1 / 2) 0 = 0 := by
  rw [ease_half hN, sub_zero, mul_one, pow2_nine hN]
  norm_num

theorem ease_half_one : ease N (1 / 2) 1 = 1 := by
  rw [ease_half hN, sub_self, mul_zero, hN.pow2_zero]
  norm_num

end

theorem std_ease_zero : std.ease (1 / 2) 0 = 0 := ease_half_zero ratNum_assumed

theorem std_ease_one : std.ease (1 / 2) 1 = 1 := ease_half_one ratNum_assumed

/-! ### The envelope -/

section
variable {α : Type} [Field α] [LinearOrder α] (c : Config α)
variable {q : EgInput α} {tOn tOff : α} (e : EgState α)

theorem egAdvance_level_off (hon : q.on = false) (gate : Bool) :
    (egAdvance c q gate tOn tOff e).level = if gate then 1 else 0 := by simp [egAdvance, hon]

theorem egAdvance_level_held (hon : q.on = true) :
    (egAdvance c q true tOn tOff e).level = egHeld c q tOn := by simp [egAdvance, hon]

theorem egAdvance_level_released (hon : q.on = true) :
    (egAdvance c q false tOn tOff e).level =
      egReleased c q tOff (if tOff = 0 then e.level else e.relStart) := by
  simp [egAdvance, egLatch, hon]

theorem egHeld_attack (h : tOn < q.attack) : egHeld c q tOn = c.ease c.curveParam (tOn / q.attack) := by
  simp [egHeld, h, egSegment, lerp]

theorem egHeld_decay (h1 : q.attack ≤ tOn) (h2 : tOn < q.attack + q.decay) :
    egHeld c q tOn = 1 + (q.sustain - 1) * c.ease c.curveParam ((tOn - q.attack) / q.decay) := by
  rw [egHeld, if_neg (not_lt.mpr h1), if_pos h2]
  rfl

theorem egHeld_sustain (h1 : q.attack ≤ tOn) (h2 : q.attack + q.decay ≤ tOn) :
    egHeld c q tOn = q.sustain := by
  rw [egHeld, if_neg (not_lt.mpr h1), if_neg (not_lt.mpr h2)]

theorem egReleased_of_lt (h : tOff < q.release) (start : α) :
    egReleased c q tOff start = start * (1 - c.ease c.curveParam (tOff / q.release)) := by
  rw [egReleased, if_pos h, egSegment, lerp]
  ring

theorem egReleased_of_le (h : q.release ≤ tOff) (start : α) : egReleased c q tOff start = 0 :=
  if_neg (not_lt.mpr h)

end

/-- Settles O37: the segments by their lemmas, the ends by those of the ease. -/
theorem envelopeSegmentsMeetTheirEnds : Obligations.EnvelopeSegmentsMeetTheirEnds := by
  intro q tOn tOff e hdecay
  refine ⟨fun hon h => ?attack, fun hon h1 h2 => ?decay, fun hon h => ?release, fun hon h => ?attackStart,
    fun hon h => ?attackEnd, fun hon h => ?sustain, fun hon h => ?releaseStart, fun hon h => ?released,
    fun hon => ⟨egAdvance_level_off std e hon true, egAdvance_level_off std e hon false⟩, rfl,
    fun h => ?latchKept, rfl⟩
  case attack => rw [egAdvance_level_held std e hon, egHeld_attack std h]; rfl
  case decay => rw [egAdvance_level_held std e hon, egHeld_decay std h1 h2]; rfl
  case release => rw [egAdvance_level_released std e hon, egReleased_of_lt std h]; rfl
  case attackStart =>
    rw [egAdvance_level_held std e hon, egHeld_attack std h, zero_div]
    exact std_ease_zero
  case attackEnd =>
    rw [egAdvance_level_held std e hon, egHeld_decay std le_rfl (by linarith), sub_self, zero_div]
    change 1 + (q.sustain - 1) * std.ease (1 / 2) 0 = 1
    rw [std_ease_zero, mul_zero, add_zero]
  case sustain => rw [egAdvance_level_held std e hon, egHeld_sustain std (by linarith) h]
  case releaseStart =>
    rw [egAdvance_level_released std e hon, egReleased_of_lt std h, zero_div, if_pos rfl]
    change e.level * (1 - std.ease (1 / 2) 0) = e.level
    rw [std_ease_zero, sub_zero, mul_one]
  case released => rw [egAdvance_level_released std e hon, egReleased_of_le std h]
  case latchKept => simp [egAdvance, egLatch, h]

/-! ### The click gain -/

theorem clickGainOf_ramp {tOn : Scalar} (h : tOn < 2 / 1000) :
    clickGainOf std true tOn = 1 / 2 - 1 / 2 * std.num.cos (std.num.pi * tOn / (2 / 1000)) :=
  if_pos ⟨rfl, h⟩

/-- Settles O38: the two branches, and the staircase by evaluation at its four uptimes. -/
theorem clickGainIsAStaircase : Obligations.ClickGainIsAStaircase :=
  ⟨fun _ => if_neg (by simp), fun _ h => if_neg fun hramp => absurd hramp.2 (not_lt.mpr h),
    fun _ h => clickGainOf_ramp h, clickGainOf_zero std_lawful (by norm_num [std, standard]),
    by decide +kernel, by decide +kernel, by decide +kernel⟩

/-! ### The LFO's shapes -/

/-- The sine's four quarters. -/
theorem std_sin_quarters : std.num.sin (2 * std.num.pi * 0) = 0 ∧ std.num.sin (2 * std.num.pi * (1 / 4)) = 1 ∧
    std.num.sin (2 * std.num.pi * (1 / 2)) = 0 ∧ std.num.sin (2 * std.num.pi * (3 / 4)) = -1 := by
  decide +kernel

section
variable (p sh : Scalar)

theorem lfoOutput_sine : lfoOutput std .sine ⟨p, sh⟩ = std.num.sin (2 * std.num.pi * p) := rfl

theorem lfoOutput_triangle : lfoOutput std .triangle ⟨p, sh⟩ = 4 * |p - 1 / 2| - 1 :=
  congrArg (fun m => 4 * m - 1) (magnitude_eq_abs (p - 1 / 2))

theorem lfoOutput_rectangle : lfoOutput std .rectangle ⟨p, sh⟩ = if p < 1 / 2 then 1 else -1 := rfl

theorem lfoOutput_descendingSaw : lfoOutput std .descendingSaw ⟨p, sh⟩ = 1 - 2 * p := rfl

end

/-- Settles O40: the formulas, the table from them, and the range of every shape. -/
theorem lfoShapesAreBipolar : Obligations.LfoShapesAreBipolar := by
  refine ⟨fun p sh => ⟨lfoOutput_sine p sh, lfoOutput_triangle p sh, lfoOutput_rectangle p sh,
    lfoOutput_descendingSaw p sh, rfl⟩, fun sh => ?table,
    fun w l h0 h1 hlo hhi => lfoWave_isBipolar ratNum_assumed w ⟨h0, h1⟩ ⟨hlo, hhi⟩⟩
  obtain ⟨h0, h1, h2, h3⟩ := std_sin_quarters
  refine ⟨h0, h1, h2, h3, ?_⟩
  simp only [lfoOutput_triangle, lfoOutput_rectangle, lfoOutput_descendingSaw]
  norm_num [abs_of_nonneg, abs_of_neg]

/-! ### The router -/

section
variable {p : Params Scalar} {v : Voice Scalar} {t : Target}

theorem lfoSel_eq_zero_or_one (p : Params Scalar) (t : Target) : lfoSel std p t = 0 ∨ lfoSel std p t = 1 := by
  unfold lfoSel
  split_ifs <;> simp

theorem modSel_eq_zero_or_one (p : Params Scalar) (t : Target) : modSel std p t = 0 ∨ modSel std p t = 1 := by
  unfold modSel
  split_ifs <;> simp

theorem routeUnary_eq (base : Scalar) : routeUnary std p v base t =
    max 0 (min 1 (base + v.lfoOut * p.lfoDepth ^ 2 * lfoSel std p t
      + v.modEg.level * p.modAmount ^ 2 * modSel std p t)) := by
  rw [routeUnary, clamp01, clamp_eq_max_min _ _ _ zero_le_one, min_comm, sq, sq]

/-- The LFO's term of the pitch route. -/
def lfoPitch (p : Params Scalar) (v : Voice Scalar) (t : Target) : Scalar :=
  v.lfoOut * p.lfoDepth ^ 3 * 4 * lfoSel std p t

/-- The modulation envelope's term of the pitch route. -/
def modPitch (p : Params Scalar) (v : Voice Scalar) (t : Target) : Scalar :=
  v.modEg.level * p.modAmount ^ 2 * 12 * modSel std p t

theorem routePitch_eq (p : Params Scalar) (v : Voice Scalar) (t : Target) :
    routePitch std p v t = lfoPitch p v t + modPitch p v t := by
  rw [routePitch, lfoPitch, modPitch]
  ring

theorem lfoPitch_mem (hp : p.Inv) (hv : v.Inv std) (t : Target) :
    -4 ≤ lfoPitch p v t ∧ lfoPitch p v t ≤ 4 := by
  have hd : |p.lfoDepth ^ 3| ≤ 1 := by
    rw [abs_of_nonneg (pow_nonneg hp.lfoDepth.1 3)]
    exact pow_le_one₀ hp.lfoDepth.1 hp.lfoDepth.2
  have hs : |lfoSel std p t| ≤ 1 := by
    rcases lfoSel_eq_zero_or_one p t with h | h <;> simp [h]
  have hx : |v.lfoOut| ≤ 1 := abs_le.mpr hv.lfoOut
  rw [← abs_le, lfoPitch, abs_mul, abs_mul, abs_mul, abs_of_pos (by norm_num : (0 : Scalar) < 4)]
  have h1 := mul_le_one₀ hx (abs_nonneg _) hd
  have h2 := mul_le_one₀ h1 (abs_nonneg _) hs
  linarith

theorem modPitch_mem (hp : p.Inv) (hv : v.Inv std) (t : Target) :
    0 ≤ modPitch p v t ∧ modPitch p v t ≤ 12 := by
  have hs : 0 ≤ modSel std p t ∧ modSel std p t ≤ 1 := by
    rcases modSel_eq_zero_or_one p t with h | h <;> simp [h]
  have ha := pow_le_one₀ (n := 2) hp.modAmount.1 hp.modAmount.2
  have ha0 := pow_nonneg hp.modAmount.1 2
  have h1 := mul_le_one₀ hv.modLevel.2 ha0 ha
  have h2 := mul_le_one₀ h1 hs.1 hs.2
  have h0 := mul_nonneg (mul_nonneg hv.modLevel.1 ha0) hs.1
  constructor <;> (rw [modPitch]; linarith)

end

/-- Settles O41: the two routes by their terms. -/
theorem routerRangesAndIdentity : Obligations.RouterRangesAndIdentity := by
  refine ⟨rfl, ?_⟩
  rintro p v base _ _ t rfl rfl
  refine ⟨routeUnary_eq base, routePitch_eq p v t, fun hp hv => ?ranges, fun hlfo hmod => ?identity⟩
  case ranges =>
    obtain ⟨hl0, hl1⟩ := lfoPitch_mem hp hv t
    obtain ⟨hm0, hm1⟩ := modPitch_mem hp hv t
    rw [routePitch_eq]
    refine ⟨⟨by linarith, by linarith⟩, fun hmod => ?_, fun hlfo => ?_⟩
    · have hterm : modPitch p v t = 0 := mul_eq_zero_of_right _ hmod
      rw [hterm, add_zero]
      exact ⟨hl0, hl1⟩
    · have hterm : lfoPitch p v t = 0 := mul_eq_zero_of_right _ hlfo
      rw [hterm, zero_add]
      exact ⟨hm0, hm1⟩
  case identity =>
    have hl : lfoSel std p t = 0 := hlfo
    have hm : modSel std p t = 0 := hmod
    constructor
    · intro h0 h1
      rw [routeUnary_eq, hl, hm, mul_zero, mul_zero, add_zero, add_zero, min_eq_right h1, max_eq_right h0]
    · rw [routePitch_eq, lfoPitch, modPitch, hl, hm, mul_zero, mul_zero, add_zero]

/-! ### The octave register -/

/-- Settles O42: in each range the rounded number is at most a half below and less than a half above
`4 x - 2`. -/
theorem octaveRegisterSelectsTheShift : Obligations.OctaveRegisterSelectsTheShift := by
  intro x h0 h1
  have hshift : ∀ n : Int, (n : Scalar) ≤ 4 * x - 2 + 1 / 2 → 4 * x - 2 - 1 / 2 < n → octaveShift x = n := by
    intro n hlo hhi
    refine roundHalfUp_eq_iff.mpr ?_
    unfold lerp
    constructor <;> linarith
  split_ifs <;> (apply hshift <;> push_cast <;> linarith)

end Sys2Proof.Machine
end

section
/-! SUPPORT. The band-limiting correction, the waveforms and the oscillator's render loop
(40_numeric_primitives.md R106, 41_oscillator.md R134 to R143). -/

namespace Sys2Proof.Machine

set_option linter.unusedSectionVars false

/-! ### The correction -/

section
variable {α : Type} [Field α] [LinearOrder α] [IsStrictOrderedRing α] [FloorRing α] {t dt : α}

theorem polyBlep_eq (t dt : α) : polyBlep t dt =
    if t < dt then 2 * (t / dt) - (t / dt) ^ 2 - 1
    else if 1 - dt < t then ((t - 1) / dt) ^ 2 + 2 * ((t - 1) / dt) + 1 else 0 := by
  simp only [polyBlep, sq]

/-- Both parabolas are squares of a number in [0, 1], one of them negated. -/
theorem polyBlep_mem (h0 : 0 ≤ t) (h1 : t < 1) (hdt : 0 < dt) :
    -1 ≤ polyBlep t dt ∧ polyBlep t dt ≤ 1 := by
  rw [polyBlep_eq]
  split_ifs with hbefore hafter
  · have hu0 : 0 ≤ 1 - t / dt := sub_nonneg.mpr ((div_le_one hdt).mpr hbefore.le)
    have hu1 : 1 - t / dt ≤ 1 := sub_le_self _ (div_nonneg h0 hdt.le)
    have hsq := pow_le_one₀ (n := 2) hu0 hu1
    constructor <;> nlinarith
  · have hu0 : 0 ≤ (t - 1) / dt + 1 := by
      rw [div_add_one hdt.ne']
      exact div_nonneg (by linarith) hdt.le
    have hu1 : (t - 1) / dt + 1 ≤ 1 := by
      have := div_nonpos_of_nonpos_of_nonneg (sub_nonpos.mpr h1.le) hdt.le
      linarith
    have hsq := pow_le_one₀ (n := 2) hu0 hu1
    constructor <;> nlinarith
  · norm_num

end

/-- Settles O51: the examples are the formula at their numbers. -/
theorem polyBlepStaysWithinOne : Obligations.PolyBlepStaysWithinOne := by
  refine ⟨fun t dt h0 h1 hdt => ⟨polyBlep_eq t dt, polyBlep_mem h0 h1 hdt⟩, ?_, ?_, ?_⟩ <;>
  · refine (polyBlep_eq _ _).trans ?_
    norm_num

/-! ### The waveforms -/

section
variable {α : Type} [Field α] [LinearOrder α] [IsStrictOrderedRing α] {x k : α}

/-- The shaper maps the bipolar range into itself: it increases from -1 at -1 to 1 at 1. -/
theorem sigmoid_mem (hx : IsBipolar x) (hk0 : 0 ≤ k) (hk1 : k < 1) : IsBipolar (sigmoid x k) := by
  have habs : |x| ≤ 1 := abs_le.mpr hx
  have hone : |(1 : α)| ≤ 1 := by rw [abs_one]
  have hneg : |(-1 : α)| ≤ 1 := by rw [abs_neg, abs_one]
  have hend := sigmoid_one hk1
  constructor
  · rcases hx.1.eq_or_lt with rfl | h
    · rw [sigmoid_neg, hend]
    · have h1 := sigmoid_lt_sigmoid hneg habs hk0 hk1 h
      rw [sigmoid_neg, hend] at h1
      exact h1.le
  · rcases hx.2.eq_or_lt with rfl | h
    · exact hend.le
    · have h1 := sigmoid_lt_sigmoid habs hone hk0 hk1 h
      rw [hend] at h1
      exact h1.le

end

section
variable {t dt pw : Scalar} (draws : Nat)

/-- R135's breakpoint. -/
def sawBreak (pw : Scalar) : Scalar := (1 - (1 - pw) ^ 2) * (95 / 100)

/-- R136's breakpoint. -/
def rectBreak (pw : Scalar) : Scalar := 1 / 2 - pw * (4 / 10)

/-- The saw before the correction. -/
def sawRamp (t pw : Scalar) : Scalar :=
  if t < sawBreak pw then -1 else -1 + 2 * (t - sawBreak pw) / (1 - sawBreak pw)

theorem oscSample_saw (t dt pw : Scalar) :
    oscSample std .saw t dt pw draws = (sawRamp t pw - std.polyBlep t dt, draws) := by
  simp only [sawRamp, sawBreak, sq]
  rfl

theorem oscSample_rectangle (t dt pw : Scalar) : oscSample std .rectangle t dt pw draws =
    ((if t < rectBreak pw then 1 else -1) + std.polyBlep t dt
      - std.polyBlep (Int.fract (t - rectBreak pw)) dt, draws) := rfl

theorem oscSample_triangle (t dt pw : Scalar) : oscSample std .triangle t dt pw draws =
    (std.sigmoid (4 * |t - 1 / 2| - 1) (pw * (9 / 10)), draws) := by
  rw [← magnitude_eq_abs]
  rfl

theorem oscSample_sine (t dt pw : Scalar) : oscSample std .sine t dt pw draws =
    (std.sigmoid (std.num.sin (2 * std.num.pi * t)) (pw * (9 / 10)), draws) := rfl

theorem oscSample_noise (t dt pw : Scalar) :
    oscSample std .noise t dt pw draws = (drawAt draws, draws + 1) := rfl

theorem sawRamp_mem (h1 : t < 1) (pw : Scalar) : IsBipolar (sawRamp t pw) := by
  have hbreak : sawBreak pw ≤ 95 / 100 := by
    have := sq_nonneg (1 - pw)
    rw [sawBreak]
    linarith
  unfold sawRamp
  split_ifs with h
  · exact ⟨le_rfl, by norm_num⟩
  · have hden : 0 < 1 - sawBreak pw := by linarith
    have hu0 : 0 ≤ (t - sawBreak pw) / (1 - sawBreak pw) := div_nonneg (by linarith) hden.le
    have hu1 : (t - sawBreak pw) / (1 - sawBreak pw) ≤ 1 := (div_le_one hden).mpr (by linarith)
    rw [mul_div_assoc]
    constructor <;> linarith

end

/-- Settles O45: the correction adds at most 1 for each edge, and the shaper keeps the bipolar range. -/
theorem waveformsAreBounded : Obligations.WaveformsAreBounded := by
  rintro t dt pw _ _ draws h0 h1 hdt hpw0 hpw1 rfl rfl
  have hk0 : 0 ≤ pw * (9 / 10) := by linarith
  have hk1 : pw * (9 / 10) < 1 := by linarith
  have hblep : ∀ s : Scalar, IsPhase s → -1 ≤ std.polyBlep s dt ∧ std.polyBlep s dt ≤ 1 :=
    fun s hs => polyBlep_mem hs.1 hs.2 hdt
  obtain ⟨hb0, hb1⟩ := hblep t ⟨h0, h1⟩
  refine ⟨oscSample_saw draws t dt pw, oscSample_rectangle draws t dt pw, oscSample_triangle draws t dt pw,
    oscSample_sine draws t dt pw, oscSample_noise draws t dt pw, ?saw, ?rectangle, ?triangle, ?sine⟩
  case saw =>
    obtain ⟨hr0, hr1⟩ := sawRamp_mem h1 pw
    rw [oscSample_saw]
    constructor <;> linarith
  case rectangle =>
    obtain ⟨hc0, hc1⟩ := hblep _ (frac_isPhase (t - rectBreak pw))
    rw [frac_eq] at hc0 hc1
    rw [oscSample_rectangle]
    split_ifs <;> constructor <;> linarith
  case triangle =>
    have habs : |t - 1 / 2| ≤ 1 / 2 := abs_le.mpr ⟨by linarith, by linarith⟩
    have hx : IsBipolar (4 * |t - 1 / 2| - 1) := ⟨by linarith [abs_nonneg (t - 1 / 2)], by linarith⟩
    rw [oscSample_triangle]
    exact sigmoid_mem hx hk0 hk1
  case sine =>
    rw [oscSample_sine]
    exact sigmoid_mem (ratNum_assumed.sin_mem _) hk0 hk1

/-! ### The phase ramp -/

section
variable {α : Type} [Field α] [LinearOrder α] [IsStrictOrderedRing α] [FloorRing α]

/-- The phase of sample `n` from the start phase `x`. -/
def rampAt (x dt : α) (n : Nat) : α := Int.fract (x + (n : α) * dt)

/-- How many of the first `n` samples wrap. -/
def wrapsBefore (x dt : α) (n : Nat) : Nat := (List.range n).countP fun j => decide (1 ≤ rampAt x dt j + dt)

/-- The draws that a sample takes of itself: one for noise (R139). -/
def noiseDraws (w : OscWave) : Nat := if w = .noise then 1 else 0

/-- The draws taken before sample `n`. -/
def drawIndex (q : OscInput α) (x : α) (draws n : Nat) : Nat :=
  draws + n * noiseDraws q.wave + wrapsBefore x q.dt n

variable {x dt : α}

theorem rampAt_zero (h : IsPhase x) : rampAt x dt 0 = x := by
  rw [rampAt, Nat.cast_zero, zero_mul, add_zero]
  exact Int.fract_eq_self.mpr h

/-- The ramp from the next phase is the ramp one sample later. -/
theorem rampAt_next (x dt : α) (n : Nat) : rampAt (frac (x + dt)) dt n = rampAt x dt (n + 1) := by
  have h : frac (x + dt) + n * dt = x + ((n + 1 : Nat) : α) * dt - (⌊x + dt⌋ : α) := by
    rw [frac]
    push_cast
    ring
  rw [rampAt, h, Int.fract_sub_intCast, rampAt]

/-- The first sample's wrap, and the wraps of the ramp from the next phase. -/
theorem wrapsBefore_next (h : IsPhase x) (n : Nat) : wrapsBefore x dt (n + 1) =
    wrapsBefore (frac (x + dt)) dt n + if 1 ≤ x + dt then 1 else 0 := by
  rw [wrapsBefore, List.range_succ_eq_map, List.countP_cons, List.countP_map, rampAt_zero h, wrapsBefore]
  simp only [Function.comp_def, rampAt_next, decide_eq_true_eq]

end

/-! ### The render loop -/

section
variable {α : Type} [Field α] [LinearOrder α] [IsStrictOrderedRing α] [FloorRing α] (c : Config α)
variable {q : OscInput α} {o : OscState α}

theorem oscSample_draws (w : OscWave) (t dt pw : α) (draws : Nat) :
    (oscSample c w t dt pw draws).2 = draws + noiseDraws w := by cases w <;> rfl

/-- Only noise looks at the draws. -/
theorem oscSample_value {w : OscWave} (h : w ≠ .noise) (t dt pw : α) (d d' : Nat) :
    (oscSample c w t dt pw d).1 = (oscSample c w t dt pw d').1 := by
  cases w with
  | noise => exact absurd rfl h
  | _ => rfl

theorem oscAdvance_draws (o : OscState α) (dt : α) (draws : Nat) :
    (oscAdvance c o dt draws).2 = draws + if 1 ≤ o.phase + dt then 1 else 0 := by
  unfold oscAdvance
  split_ifs <;> rfl

theorem oscAdvance_held (o : OscState α) (dt : α) (draws : Nat) :
    (oscAdvance c o dt draws).1.sh = if 1 ≤ o.phase + dt then c.draw draws else o.sh := by
  unfold oscAdvance
  split_ifs <;> rfl

/-- The oscillator and the draws after one sample (R134, R141). -/
def oscNext (q : OscInput α) (o : OscState α) (draws : Nat) : OscState α × Nat :=
  oscAdvance c o q.dt (oscSample c q.wave o.phase q.dt q.pw draws).2

theorem oscLoop_cons (q : OscInput α) (y : α) (xs : List α) (o : OscState α) (draws : Nat) :
    oscLoop c q (y :: xs) o draws =
      ((y + (oscSample c q.wave o.phase q.dt q.pw draws).1 * q.vol * c.oscGain) ::
          (oscLoop c q xs (oscNext c q o draws).1 (oscNext c q o draws).2).1,
        (oscLoop c q xs (oscNext c q o draws).1 (oscNext c q o draws).2).2) := rfl

theorem oscNext_held (draws : Nat) : (oscNext c q o draws).1.sh =
    if 1 ≤ o.phase + q.dt then c.draw (draws + noiseDraws q.wave) else o.sh := by
  rw [oscNext, oscAdvance_held, oscSample_draws]

section
variable (hdt : 0 ≤ q.dt) (ho : IsPhase o.phase)
include hdt ho

theorem oscNext_phase (draws : Nat) : (oscNext c q o draws).1.phase = frac (o.phase + q.dt) :=
  oscAdvance_phase c o q.dt _ (add_nonneg ho.1 hdt)

theorem oscNext_isPhase (draws : Nat) : IsPhase (oscNext c q o draws).1.phase :=
  oscAdvance_isPhase c _ ho hdt

/-- The draws before sample `n` after the first sample are those before sample `n + 1`. -/
theorem drawIndex_next (draws n : Nat) :
    drawIndex q (oscNext c q o draws).1.phase (oscNext c q o draws).2 n =
      drawIndex q o.phase draws (n + 1) := by
  rw [drawIndex, drawIndex, oscNext_phase c hdt ho, wrapsBefore_next ho, oscNext, oscAdvance_draws,
    oscSample_draws]
  ring

theorem oscLoop_phase (xs : List α) (draws : Nat) :
    (oscLoop c q xs o draws).2.1.phase = rampAt o.phase q.dt xs.length := by
  induction xs generalizing o draws with
  | nil => exact (rampAt_zero ho).symm
  | cons y xs ih =>
    rw [oscLoop_cons, List.length_cons, ← rampAt_next, ← oscNext_phase c hdt ho draws]
    exact ih (oscNext_isPhase c hdt ho draws) _

theorem oscLoop_draws (xs : List α) (draws : Nat) :
    (oscLoop c q xs o draws).2.2 = drawIndex q o.phase draws xs.length := by
  induction xs generalizing o draws with
  | nil => simp [oscLoop, drawIndex, wrapsBefore]
  | cons y xs ih =>
    rw [oscLoop_cons, List.length_cons, ← drawIndex_next c hdt ho]
    exact ih (oscNext_isPhase c hdt ho draws) _

/-- Sample `n` reads its waveform at the ramp's phase, with the draws taken before it. -/
theorem oscLoop_sample (xs : List α) (draws : Nat) {n : Nat} (hn : n < xs.length) :
    (oscLoop c q xs o draws).1.getD n 0 = xs.getD n 0 +
      (oscSample c q.wave (rampAt o.phase q.dt n) q.dt q.pw (drawIndex q o.phase draws n)).1
        * q.vol * c.oscGain := by
  induction xs generalizing o draws n with
  | nil => cases hn
  | cons y xs ih =>
    rw [oscLoop_cons]
    cases n with
    | zero => simp [rampAt_zero ho, drawIndex, wrapsBefore]
    | succ n =>
      rw [← rampAt_next, ← drawIndex_next c hdt ho, ← oscNext_phase c hdt ho draws]
      exact ih (oscNext_isPhase c hdt ho draws) _ (Nat.lt_of_succ_lt_succ hn)

/-- Without a wrap the held value stays. -/
theorem oscLoop_held (xs : List α) (draws : Nat) (h : wrapsBefore o.phase q.dt xs.length = 0) :
    (oscLoop c q xs o draws).2.1.sh = o.sh := by
  induction xs generalizing o draws with
  | nil => rfl
  | cons y xs ih =>
    rw [List.length_cons, wrapsBefore_next ho, Nat.add_eq_zero_iff, ← oscNext_phase c hdt ho draws] at h
    obtain ⟨hrest, hfirst⟩ := h
    have hno : ¬ 1 ≤ o.phase + q.dt := fun hwrap => by simp [hwrap] at hfirst
    rw [oscLoop_cons]
    refine (ih (oscNext_isPhase c hdt ho draws) _ hrest).trans ?_
    rw [oscNext_held, if_neg hno]

/-- The held value is the draw of the last wrap, taken after the sample's own. -/
theorem oscLoop_lastWrap (xs : List α) (draws : Nat) {n : Nat} (hn : n < xs.length)
    (hwrap : 1 ≤ rampAt o.phase q.dt n + q.dt)
    (hlast : wrapsBefore o.phase q.dt xs.length = wrapsBefore o.phase q.dt n + 1) :
    (oscLoop c q xs o draws).2.1.sh =
      c.draw (drawIndex q o.phase draws n + noiseDraws q.wave) := by
  induction xs generalizing o draws n with
  | nil => cases hn
  | cons y xs ih =>
    rw [oscLoop_cons]
    rw [List.length_cons, wrapsBefore_next ho, ← oscNext_phase c hdt ho draws] at hlast
    cases n with
    | zero =>
      rw [rampAt_zero ho] at hwrap
      have hrest : wrapsBefore (oscNext c q o draws).1.phase q.dt xs.length = 0 := by
        simpa [hwrap, wrapsBefore] using hlast
      refine (oscLoop_held c hdt (oscNext_isPhase c hdt ho draws) xs _ hrest).trans ?_
      rw [oscNext_held, if_pos hwrap]
      simp [drawIndex, wrapsBefore]
    | succ n =>
      rw [← rampAt_next, ← oscNext_phase c hdt ho draws] at hwrap
      rw [wrapsBefore_next ho n, ← oscNext_phase c hdt ho draws] at hlast
      rw [← drawIndex_next c hdt ho]
      exact ih (oscNext_isPhase c hdt ho draws) _ (Nat.lt_of_succ_lt_succ hn) hwrap (by omega)

end

end

/-- Settles O44: the phase, the samples, the draws and the held value of the loop. -/
theorem oscillatorSamplesItsPhaseRamp : Obligations.OscillatorSamplesItsPhaseRamp := by
  rintro q xs o draws ph k _ hdt h0 h1 rfl hph hk
  have ho : IsPhase o.phase := ⟨h0, h1⟩
  obtain rfl : ph = rampAt o.phase q.dt := funext hph
  obtain rfl : k = wrapsBefore o.phase q.dt := funext hk
  refine ⟨oscLoop_phase std hdt ho xs draws, oscLoop_length std q xs o draws, fun hwave => ⟨?draws, fun n hn => ?sample⟩,
    fun hwave => ⟨?noiseDraws, fun n hn => ?noiseSample⟩, oscLoop_held std hdt ho xs draws,
    fun n hn hwrap hlast => ?lastWrap⟩
  case draws => simp [oscLoop_draws std hdt ho, drawIndex, noiseDraws, hwave]
  case sample =>
    rw [oscLoop_sample std hdt ho xs draws hn, oscSample_value std hwave _ _ _ _ draws]
    rfl
  case noiseDraws => simp [oscLoop_draws std hdt ho, drawIndex, noiseDraws, hwave]
  case noiseSample =>
    rw [oscLoop_sample std hdt ho xs draws hn, hwave, drawIndex, noiseDraws, hwave, if_pos rfl, mul_one]
    rfl
  case lastWrap =>
    rw [oscLoop_lastWrap std hdt ho xs draws hn hwrap hlast]
    refine congrArg drawAt ?_
    rw [drawIndex, noiseDraws]
    split_ifs <;> omega

end Sys2Proof.Machine
end

section
/-! SUPPORT. The soft clip, the filter's sample loop and the biquad's coefficients
(40_numeric_primitives.md R108, 42_filter.md R165, R167, R168). -/

namespace Sys2Proof.Machine

set_option linter.unusedSectionVars false

/-! ### The soft clip -/

section
variable {α : Type} [Field α] [LinearOrder α] [IsStrictOrderedRing α] [FloorRing α] {c : Config α}
variable (hc : c.Lawful) {x y a : α}
include hc

theorem softClip_neg (x a : α) : softClip c (-x) a = -softClip c x a := by
  rw [softClip, softClip, neg_div, clamp_neg _ _ (clipLimit_pos hc).le, hc.cubic_neg, mul_neg]

theorem softClip_mono (ha : 0 < a) (hxy : x ≤ y) : softClip c x a ≤ softClip c y a := by
  have hlim := clipLimit_neg_le hc
  have hle : clamp (x / a) (-clipLimit c) (clipLimit c) ≤ clamp (y / a) (-clipLimit c) (clipLimit c) :=
    clamp_mono hlim (div_le_div_of_nonneg_right hxy ha.le)
  exact mul_le_mul_of_nonneg_left
    (hc.cubic_mono _ _ (le_clamp _ _ _ hlim) hle (clamp_le _ _ _ hlim)) ha.le

theorem softClip_inside (ha : 0 < a) (hx : |x| ≤ a * clipLimit c) :
    softClip c x a = a * c.cubic (x / a) := by
  obtain ⟨h0, h1⟩ := abs_le.mp hx
  rw [softClip, clamp_of_mem]
  · rw [le_div_iff₀ ha]; linarith
  · rw [div_le_iff₀ ha]; linarith

theorem softClip_beyond (ha : 0 < a) (hx : a * clipLimit c ≤ x) : softClip c x a = clipBound c a := by
  rw [softClip, clamp_of_ge (clipLimit_neg_le hc), clipBound]
  rw [le_div_iff₀ ha]
  linarith

end

/-- The executable block's cubic is the spec's. -/
theorem std_cubic (u : Scalar) : std.cubic u = u - u ^ 3 / 6 := by
  change cubic u = _
  rw [cubic]
  ring

/-- Settles O53: the clamp is odd and monotone, the cubic too between the clamp points. -/
theorem softClipIsAnOddMonotoneLimiter : Obligations.SoftClipIsAnOddMonotoneLimiter := by
  intro x a ha
  refine ⟨rfl, ?bound, softClip_neg std_lawful x a, fun y hxy => softClip_mono std_lawful ha hxy,
    fun hx => ?inside, softClip_beyond std_lawful ha, abs_le.mpr (softClip_mem std_lawful x ha.le)⟩
  case bound => rw [clipBound, std_cubic]
  case inside =>
    rw [softClip_inside std_lawful ha hx, std_cubic]
    field_simp

/-! ### The sample loop -/

/-- Every output sample of the filter is within its soft clip. -/
theorem filterLoop_mem {α : Type} [Field α] [LinearOrder α] [IsStrictOrderedRing α] [FloorRing α]
    {c : Config α} (hc : c.Lawful) (q : FilterInput α) (xs : List α) (f : FilterState α) :
    ∀ y ∈ (filterLoop c q xs f).1, -clipBound c c.aOut ≤ y ∧ y ≤ clipBound c c.aOut := by
  induction xs generalizing f with
  | nil => simp [filterLoop]
  | cons x xs ih =>
    obtain ⟨-, hout⟩ := filterSample_mem hc q f x
    exact List.forall_mem_cons.mpr ⟨hout, ih _⟩

/-- Settles O46: the loop is its own definition in both arithmetics; the bound is the sample's. -/
theorem filterOutputIsBounded : Obligations.FilterOutputIsBounded := by
  refine ⟨?settled, ?exact, fun q xs f =>
    ⟨rfl, filterLoop_length std q xs f, filterLoop_mem std_lawful q xs f⟩⟩
  case settled =>
    rintro q f _ x _ _ _ _ _ xs rfl rfl rfl rfl rfl rfl
    rfl
  case exact =>
    rintro nVoices chunk osc2Pw p draw seed _ q f _ x _ _ _ _ _ xs rfl rfl rfl rfl rfl rfl rfl
    rfl

/-! ### The biquad -/

theorem turns_two_pi (t : Scalar) : turns (2 * ratPi * t) = t :=
  mul_div_cancel_left₀ t (mul_ne_zero two_ne_zero ratNum_assumed.pi_pos.ne')

/-- The sine at the angle of `t` turns. -/
theorem std_sin_turns (t : Scalar) : std.num.sin (2 * std.num.pi * t) = sinTurns t :=
  congrArg sinTurns (turns_two_pi t)

/-- The cosine at the angle of `t` turns. -/
theorem std_cos_turns (t : Scalar) : std.num.cos (2 * std.num.pi * t) = sinTurns (t + 1 / 4) :=
  congrArg (fun u => sinTurns (u + 1 / 4)) (turns_two_pi t)

/-- The sine of an angle up to half a turn is not negative. -/
theorem sinTurns_nonneg {t : Scalar} (h0 : 0 ≤ t) (h1 : t ≤ 1 / 2) : 0 ≤ sinTurns t := by
  rcases h1.eq_or_lt with rfl | h
  · decide +kernel
  · have hfrac : frac t = t := Int.fract_eq_self.mpr ⟨h0, by linarith⟩
    rw [sinTurns, hfrac, if_pos h]
    exact (sinHalf_mem t).1

section
variable {α : Type} [Field α] [LinearOrder α] [IsStrictOrderedRing α]

/-- R165's normalising coefficient. -/
def biquadNorm (sn q : α) : α := 1 + sn / (2 * q)

theorem one_le_biquadNorm {sn q : α} (hs : 0 ≤ sn) (hq : 0 < q) : 1 ≤ biquadNorm sn q :=
  le_add_of_nonneg_right (div_nonneg hs (by linarith))

/-- Unit gain at zero frequency. -/
theorem biquadOf_gain (cs : α) {sn q : α} (h : biquadNorm sn q ≠ 0) :
    (biquadOf cs sn q).b0 + (biquadOf cs sn q).b1 + (biquadOf cs sn q).b2 =
      1 + (biquadOf cs sn q).a1 + (biquadOf cs sn q).a2 := by
  have hone : (1 : α) = biquadNorm sn q / biquadNorm sn q := (div_self h).symm
  change (1 - cs) / 2 / biquadNorm sn q + (1 - cs) / biquadNorm sn q + (1 - cs) / 2 / biquadNorm sn q =
    1 + -2 * cs / biquadNorm sn q + (1 - sn / (2 * q)) / biquadNorm sn q
  rw [← add_div, ← add_div]
  nth_rewrite 4 [hone]
  rw [← add_div, ← add_div, biquadNorm]
  ring

end

/-- Settles O48: the sine of half a turn is not negative, so that the normalising coefficient is at least 1. -/
theorem biquadHasUnitGainAtZero : Obligations.BiquadHasUnitGainAtZero := by
  rintro nc q _ _ _ h0 h1 hq rfl rfl rfl
  have hsin : 0 ≤ std.num.sin (2 * std.num.pi * nc) := std_sin_turns nc ▸ sinTurns_nonneg h0 h1
  have hnorm := one_le_biquadNorm hsin hq
  exact ⟨rfl, hnorm, biquadOf_gain _ (zero_lt_one.trans_le hnorm).ne'⟩

end Sys2Proof.Machine
end

section
/-! SUPPORT. binary32 patterns and the rounding to them (30_encoding.md R82, 40_numeric_primitives.md R112). -/

namespace Sys2Proof.Machine

set_option linter.unusedSectionVars false

/-! ### Rounding to an integer, and the binary exponent -/

section
variable {α : Type} [Field α] [LinearOrder α] [IsStrictOrderedRing α] [FloorRing α] {x y : α}

theorem floor_toNat_cast (h : 0 ≤ y) : ((⌊y⌋.toNat : Nat) : α) = (⌊y⌋ : α) := by
  exact_mod_cast congrArg (Int.cast : Int → α) (Int.toNat_of_nonneg (Int.floor_nonneg.mpr h))

/-- The rounded number is at most a half away, and even when it is a half away. -/
theorem roundNearestEven_spec (h : 0 ≤ y) :
    |(roundNearestEven y : α) - y| ≤ 1 / 2 ∧
      (|(roundNearestEven y : α) - y| = 1 / 2 → roundNearestEven y % 2 = 0) := by
  have hlo := Int.floor_le y
  have hhi := Int.lt_floor_add_one y
  rw [← floor_toNat_cast h] at hlo hhi
  unfold roundNearestEven
  dsimp only
  generalize ⌊y⌋.toNat = q at hlo hhi ⊢
  split_ifs with hbelow habove heven
  · rw [abs_of_nonpos (by linarith)]
    exact ⟨by linarith, fun htie => by linarith⟩
  · push_cast
    rw [abs_of_nonneg (by linarith)]
    exact ⟨by linarith, fun htie => by linarith⟩
  · rw [abs_of_nonpos (by linarith)]
    exact ⟨by linarith, fun _ => heven⟩
  · push_cast
    rw [abs_of_nonneg (by linarith)]
    exact ⟨by linarith, fun _ => by omega⟩

/-- No integer is nearer than the rounded number, and a tie goes to the even one. -/
theorem roundNearestEven_nearest (h : 0 ≤ y) (j : Int) :
    |(roundNearestEven y : α) - y| ≤ |(j : α) - y| ∧
      (j ≠ (roundNearestEven y : Int) → |(j : α) - y| = |(roundNearestEven y : α) - y| →
        roundNearestEven y % 2 = 0) := by
  obtain ⟨hhalf, heven⟩ := roundNearestEven_spec h
  generalize roundNearestEven y = q at *
  by_cases hj : j = (q : Int)
  · subst hj
    exact ⟨by simp, fun hne => absurd rfl hne⟩
  · have hgap : (1 : α) ≤ |(j : α) - q| := by
      exact_mod_cast Int.one_le_abs (sub_ne_zero.mpr hj)
    have htri : |(j : α) - q| ≤ |(j : α) - y| + |(q : α) - y| := by
      rw [abs_sub_comm (q : α) y]
      exact abs_sub_le _ _ _
    exact ⟨by linarith, fun _ htie => heven (by linarith)⟩

theorem roundNearestEven_natCast (n : Nat) : roundNearestEven (n : α) = n := by
  obtain ⟨h, -⟩ := roundNearestEven_spec (Nat.cast_nonneg (α := α) n)
  have hlt : |((roundNearestEven (n : α) : Int) : α) - ((n : Int) : α)| < 1 := by
    push_cast
    linarith
  have hint : |(roundNearestEven (n : α) : Int) - (n : Int)| < 1 := by exact_mod_cast hlt
  rw [Int.abs_lt_one_iff] at hint
  omega

/-- A number up to half above an integer is not rounded beyond it. -/
theorem roundNearestEven_le (h : 0 ≤ y) {n : Nat} (hn : y < n + 1 / 2) : roundNearestEven y ≤ n := by
  obtain ⟨hhalf, -⟩ := roundNearestEven_spec h
  have hlt : (roundNearestEven y : α) < ((n + 1 : Nat) : α) := by
    push_cast
    linarith [(abs_le.mp hhalf).2]
  exact Nat.le_of_lt_succ (by exact_mod_cast hlt)

theorem le_roundNearestEven {n : Nat} (hn : (n : α) ≤ y) : n ≤ roundNearestEven y := by
  obtain ⟨hhalf, -⟩ := roundNearestEven_spec ((Nat.cast_nonneg n).trans hn)
  have hlt : (n : α) < ((roundNearestEven y + 1 : Nat) : α) := by
    push_cast
    linarith [(abs_le.mp hhalf).1]
  exact Nat.le_of_lt_succ (by exact_mod_cast hlt)

/-- The exponent of the binade of a positive number. -/
theorem floorLog2_spec (hx : 0 < x) : (2 : α) ^ floorLog2 x ≤ x ∧ x < (2 : α) ^ (floorLog2 x + 1) := by
  unfold floorLog2
  split_ifs with h
  · have hn : ⌊x⌋.toNat ≠ 0 := by
      have : 1 ≤ ⌊x⌋ := Int.le_floor.mpr (by exact_mod_cast h)
      omega
    have hlo := Int.floor_le x
    have hhi := Int.lt_floor_add_one x
    rw [← floor_toNat_cast hx.le] at hlo hhi
    have h1 : ((2 ^ ⌊x⌋.toNat.log2 : Nat) : α) ≤ (⌊x⌋.toNat : α) := by
      exact_mod_cast Nat.log2_self_le hn
    have h2 : ((⌊x⌋.toNat + 1 : Nat) : α) ≤ ((2 ^ (⌊x⌋.toNat.log2 + 1) : Nat) : α) := by
      exact_mod_cast Nat.lt_log2_self
    push_cast at h1 h2
    refine ⟨by rw [zpow_natCast]; exact h1.trans hlo, ?_⟩
    rw [← Nat.cast_succ, zpow_natCast]
    exact hhi.trans_le h2
  · have hinv : 1 < 1 / x := (one_lt_div hx).mpr (not_le.mp h)
    have hn : 1 < ⌈1 / x⌉ := Int.lt_ceil.mpr (by exact_mod_cast hinv)
    obtain ⟨m, hm⟩ : ∃ m : Nat, ⌈1 / x⌉ = (m : Int) + 1 := ⟨(⌈1 / x⌉ - 1).toNat, by omega⟩
    have hpred : ⌈1 / x⌉.toNat - 1 = m := by omega
    have hlo : (m : α) < 1 / x := by
      have := Int.lt_ceil.mp (show (m : Int) < ⌈1 / x⌉ by omega)
      exact_mod_cast this
    have hhi : 1 / x ≤ (m : α) + 1 := by
      have := Int.le_ceil (1 / x)
      rw [hm] at this
      exact_mod_cast this
    have h1 : ((2 ^ m.log2 : Nat) : α) ≤ (m : α) := by exact_mod_cast Nat.log2_self_le (by omega)
    have h2 : ((m + 1 : Nat) : α) ≤ ((2 ^ (m.log2 + 1) : Nat) : α) := by
      exact_mod_cast Nat.lt_log2_self
    push_cast at h1 h2
    rw [hpred]
    constructor
    · rw [zpow_neg, zpow_natCast, inv_le_comm₀ (by positivity) hx, ← one_div]
      exact hhi.trans h2
    · have hexp : -((m.log2 + 1 : Nat) : Int) + 1 = -(m.log2 : Int) := by push_cast; ring
      rw [hexp, zpow_neg, zpow_natCast, lt_inv_comm₀ hx (by positivity), ← one_div]
      exact h1.trans_lt hlo

theorem floorLog2_lt {e : Int} (hx : 0 < x) (h : x < (2 : α) ^ e) : floorLog2 x < e :=
  (zpow_lt_zpow_iff_right₀ one_lt_two).mp ((floorLog2_spec hx).1.trans_lt h)

theorem floorLog2_eq {e : Int} (h0 : (2 : α) ^ e ≤ x) (h1 : x < (2 : α) ^ (e + 1)) : floorLog2 x = e := by
  have hx : 0 < x := lt_of_lt_of_le (by positivity) h0
  have hle := floorLog2_lt hx h1
  have hlt : e < floorLog2 x + 1 :=
    (zpow_lt_zpow_iff_right₀ one_lt_two).mp (h0.trans_lt (floorLog2_spec hx).2)
  omega

end

/-! ### The significand and the exponent of a pattern -/

/-- The magnitude bits of a significand `q`, counted in units of the last place of the binade `e`. -/
def f32Code (e : Int) (q : Nat) : Nat := 2 ^ 23 * (e + 126).toNat + q

/-- A significand of 24 bits, with its hidden bit unless it is subnormal. -/
structure IsSignificand (e : Int) (q : Nat) : Prop where
  subnormal : -126 ≤ e
  lt : q < 2 ^ 24
  hidden : 2 ^ 23 ≤ q ∨ e = -126

section
variable {α : Type} [Field α] [LinearOrder α] [IsStrictOrderedRing α] [FloorRing α] {x : α}

/-- The binade that `f32Bits` counts in. -/
def f32Binade (x : α) : Int := max (floorLog2 x) (-126)

/-- The significand that `f32Bits` rounds to. -/
def f32Significand (x : α) : Nat := roundNearestEven (exp2Int (23 - f32Binade x) * x)

theorem f32Bits_eq (x : α) : f32Bits x = min (f32Code (f32Binade x) (f32Significand x)) 0x7F800000 := rfl

theorem f32Bits_le (x : α) : f32Bits x ≤ 0x7F800000 := Nat.min_le_right _ _

/-- A positive number in units of the last place of its binade. -/
theorem unitsOfBinade (hx : 0 < x) :
    exp2Int (23 - f32Binade x) * x < 2 ^ 24 ∧
      (-126 < f32Binade x → 2 ^ 23 ≤ exp2Int (23 - f32Binade x) * x) := by
  obtain ⟨hlo, hhi⟩ := floorLog2_spec hx
  have hexp : ∀ k : Int, (2 : α) ^ (23 - f32Binade x) * 2 ^ (f32Binade x + k) = 2 ^ (23 + k) := by
    intro k
    rw [← zpow_add₀ two_ne_zero]
    congr 1
    ring
  rw [exp2Int_eq_zpow]
  constructor
  · have hle : x < (2 : α) ^ (f32Binade x + 1) :=
      hhi.trans_le (zpow_le_zpow_right₀ one_le_two (by unfold f32Binade; omega))
    calc (2 : α) ^ (23 - f32Binade x) * x < 2 ^ (23 - f32Binade x) * 2 ^ (f32Binade x + 1) := by gcongr
      _ = 2 ^ 24 := by rw [hexp]; norm_num
  · intro hnormal
    have hbinade : f32Binade x = floorLog2 x := by unfold f32Binade at *; omega
    rw [← hbinade] at hlo
    calc (2 : α) ^ 23 = 2 ^ (23 - f32Binade x) * 2 ^ (f32Binade x + 0) := by rw [hexp]; norm_num
      _ ≤ 2 ^ (23 - f32Binade x) * x := by rw [add_zero]; gcongr

theorem f32Significand_le (hx : 0 < x) : f32Significand x ≤ 2 ^ 24 := by
  obtain ⟨hhi, -⟩ := unitsOfBinade hx
  refine roundNearestEven_le (mul_nonneg (exp2Int_pos _).le hx.le) ?_
  push_cast
  linarith

theorem f32Significand_hidden (hx : 0 < x) : 2 ^ 23 ≤ f32Significand x ∨ f32Binade x = -126 := by
  obtain ⟨-, hlo⟩ := unitsOfBinade hx
  by_cases h : -126 < f32Binade x
  · exact .inl (le_roundNearestEven (by exact_mod_cast hlo h))
  · exact .inr (by unfold f32Binade at *; omega)

/-- The bits of a number that is a significand of its binade. -/
theorem f32Bits_scaled {e : Int} {q : Nat} (h : IsSignificand e q) (hq : 0 < q)
    (hfin : f32Code e q ≤ 0x7F800000) : f32Bits ((q : α) * 2 ^ (e - 23)) = f32Code e q := by
  have hpos : (0 : α) < (q : α) * 2 ^ (e - 23) := mul_pos (by exact_mod_cast hq) (by positivity)
  have hscale : ∀ k : Nat, (2 : α) ^ k * 2 ^ (e - 23) = 2 ^ (e - 23 + k) := by
    intro k
    rw [zpow_add₀ two_ne_zero, zpow_natCast, mul_comm]
  have hupper : (q : α) * 2 ^ (e - 23) < 2 ^ (e + 1) := by
    have hexp : e + 1 = e - 23 + (24 : Nat) := by push_cast; ring
    rw [hexp, ← hscale]
    gcongr
    exact_mod_cast h.lt
  have hbinade : f32Binade ((q : α) * 2 ^ (e - 23)) = e := by
    unfold f32Binade
    rcases h.hidden with hq23 | rfl
    · have hlower : (2 : α) ^ e ≤ (q : α) * 2 ^ (e - 23) := by
        have hexp : e = e - 23 + (23 : Nat) := by push_cast; ring
        nth_rewrite 1 [hexp]
        rw [← hscale]
        gcongr
        exact_mod_cast hq23
      rw [floorLog2_eq hlower hupper]
      exact max_eq_left h.subnormal
    · have := floorLog2_lt hpos hupper
      omega
  have hsig : f32Significand ((q : α) * 2 ^ (e - 23)) = q := by
    have hy : exp2Int (23 - e) * ((q : α) * 2 ^ (e - 23)) = q := by
      rw [exp2Int_eq_zpow, mul_left_comm, ← zpow_add₀ two_ne_zero]
      simp
    rw [f32Significand, hbinade, hy, roundNearestEven_natCast]
  rw [f32Bits_eq, hbinade, hsig, min_eq_left hfin]

end

/-! ### Patterns -/

section
variable {b : F32}

theorem f32Exponent_eq (b : F32) : f32Exponent b = b.toNat % 2 ^ 31 / 2 ^ 23 := by
  rw [f32Exponent, BitVec.extractLsb'_toNat, Nat.shiftRight_eq_div_pow]
  omega

theorem f32Fraction_eq (b : F32) : f32Fraction b = b.toNat % 2 ^ 23 := by
  rw [f32Fraction, BitVec.extractLsb'_toNat, Nat.shiftRight_zero]

theorem f32Sign_eq (b : F32) : f32Sign b = decide (2 ^ 31 ≤ b.toNat) :=
  (BitVec.msb_eq_getLsbD_last b).symm.trans (BitVec.msb_eq_decide b)

/-- Every finite pattern has a significand and an exponent. -/
theorem exists_significand (h : f32Exponent b ≠ 255) :
    ∃ e q, IsSignificand e q ∧ b.toNat % 2 ^ 31 = f32Code e q ∧ f32Code e q < 0x7F800000 := by
  rw [f32Exponent_eq] at h
  have hb : b.toNat % 2 ^ 31 < 0x7F800000 := by omega
  by_cases hsub : b.toNat % 2 ^ 31 < 2 ^ 23
  · have hcode : b.toNat % 2 ^ 31 = f32Code (-126) (b.toNat % 2 ^ 31) := by
      unfold f32Code
      omega
    exact ⟨-126, b.toNat % 2 ^ 31, ⟨le_rfl, by omega, .inr rfl⟩, hcode, hcode ▸ hb⟩
  · have hcode : b.toNat % 2 ^ 31 =
        f32Code ((b.toNat % 2 ^ 31 / 2 ^ 23 : Nat) - 127) (2 ^ 23 + b.toNat % 2 ^ 23) := by
      unfold f32Code
      omega
    exact ⟨_, _, ⟨by omega, by omega, .inl (by omega)⟩, hcode, hcode ▸ hb⟩

/-- The magnitude of a finite pattern from its significand; one of `2 ^ 24` is the next binade's first. -/
theorem f32Magnitude_of_code {e : Int} {q : Nat} (he : -126 ≤ e) (hq : q ≤ 2 ^ 24)
    (hidden : 2 ^ 23 ≤ q ∨ e = -126) (hcode : b.toNat % 2 ^ 31 = f32Code e q)
    (hfin : f32Code e q < 0x7F800000) :
    f32Exponent b ≠ 255 ∧ f32Magnitude b = (q : Rat) * 2 ^ (e - 23) := by
  unfold f32Code at hcode hfin
  unfold f32Magnitude
  rw [f32Exponent_eq, f32Fraction_eq]
  refine ⟨by omega, ?_⟩
  by_cases hsub : q < 2 ^ 23
  · obtain rfl : e = -126 := by omega
    have hexp : b.toNat % 2 ^ 31 / 2 ^ 23 = 0 := by omega
    have hfrac : b.toNat % 2 ^ 23 = q := by omega
    rw [if_pos hexp, hfrac, exp2Int_eq_zpow]
    norm_num
  · rcases hq.eq_or_lt with rfl | hlt
    · have hexp : b.toNat % 2 ^ 31 / 2 ^ 23 = (e + 128).toNat := by omega
      have hfrac : b.toNat % 2 ^ 23 = 0 := by omega
      have hne : (e + 128).toNat ≠ 0 := by omega
      have hz : (((e + 128).toNat : Nat) : Int) - 150 = (e - 23) + 1 := by omega
      rw [hexp, if_neg hne, hfrac, exp2Int_eq_zpow, hz, zpow_add_one₀ two_ne_zero]
      push_cast
      ring
    · have hexp : b.toNat % 2 ^ 31 / 2 ^ 23 = (e + 127).toNat := by omega
      have hfrac : 2 ^ 23 + b.toNat % 2 ^ 23 = q := by omega
      have hne : (e + 127).toNat ≠ 0 := by omega
      have hz : (((e + 127).toNat : Nat) : Int) - 150 = e - 23 := by omega
      rw [hexp, if_neg hne, hfrac, exp2Int_eq_zpow, hz]

theorem f32Value_finite {x : Rat} (h : f32Value b = some (.finite x)) :
    f32Exponent b ≠ 255 ∧ x = if f32Sign b then -f32Magnitude b else f32Magnitude b := by
  unfold f32Value at h
  split_ifs at h with hexp hfrac <;> simp at h
  all_goals exact ⟨hexp, by simp_all⟩

end

/-! ### The rounding -/

section
variable {x : Rat}

theorem toF32_toNat (hx : x ≠ 0) :
    (toF32 x).toNat = (if x < 0 then 2 ^ 31 else 0) + f32Bits |x| := by
  have := f32Bits_le |x|
  rw [toF32, if_neg hx, magnitude_eq_abs, BitVec.toNat_ofNat, Nat.mod_eq_of_lt]
  split_ifs <;> omega

theorem toF32_magnitudeBits (hx : x ≠ 0) : (toF32 x).toNat % 2 ^ 31 = f32Bits |x| := by
  have := f32Bits_le |x|
  rw [toF32_toNat hx]
  split_ifs <;> omega

theorem f32Sign_toF32 (hx : x ≠ 0) : f32Sign (toF32 x) = decide (x < 0) := by
  have := f32Bits_le |x|
  rw [f32Sign_eq, toF32_toNat hx, decide_eq_decide]
  split_ifs with h
  · exact iff_of_true (by omega) h
  · exact iff_of_false (by omega) h

/-- The number that a number is rounded to, its significand in units of the last place. -/
def f32Rounded (x : Rat) : Rat := (f32Significand |x| : Rat) * 2 ^ (f32Binade |x| - 23)

/-- Where the rounding is finite, it is the rounded significand, with the sign of the number. -/
theorem toF32_value {y : Rat} (hx : x ≠ 0) (h : f32Value (toF32 x) = some (.finite y)) :
    y = (if x < 0 then -f32Rounded x else f32Rounded x) ∧
      f32Bits |x| = f32Code (f32Binade |x|) (f32Significand |x|) := by
  obtain ⟨hexp, hy⟩ := f32Value_finite h
  have hcut : f32Bits |x| ≠ 0x7F800000 := by
    intro hinf
    rw [f32Exponent_eq, toF32_magnitudeBits hx, hinf] at hexp
    exact hexp rfl
  have hcode : f32Bits |x| = f32Code (f32Binade |x|) (f32Significand |x|) := by
    rw [f32Bits_eq] at hcut ⊢
    omega
  have hpos : 0 < |x| := abs_pos.mpr hx
  obtain ⟨-, hmag⟩ := f32Magnitude_of_code (b := toF32 x) (le_max_right _ _) (f32Significand_le hpos)
    (f32Significand_hidden hpos) ((toF32_magnitudeBits hx).trans hcode)
    (hcode ▸ lt_of_le_of_ne (f32Bits_le _) hcut)
  rw [hy, hmag, f32Sign_toF32 hx]
  simp only [decide_eq_true_eq]
  exact ⟨rfl, hcode⟩

end

/-- Rounding the value of a finite pattern gives the pattern back, but for that of `-0`. -/
theorem toF32_f32Value {b : F32} {x : Rat} (hb : f32Value b = some (.finite x)) (hneg : b ≠ 0x80000000) :
    toF32 x = b := by
  obtain ⟨hexp, hx⟩ := f32Value_finite hb
  obtain ⟨e, q, hsig, hcode, hfin⟩ := exists_significand hexp
  obtain ⟨-, hmag⟩ := f32Magnitude_of_code hsig.subnormal hsig.lt.le hsig.hidden hcode hfin
  rw [hmag, f32Sign_eq] at hx
  simp only [decide_eq_true_eq] at hx
  rcases Nat.eq_zero_or_pos q with rfl | hq
  · obtain rfl : e = -126 := by
      have := hsig.hidden
      omega
    have hne : b.toNat ≠ 2 ^ 31 := fun h => hneg (BitVec.eq_of_toNat_eq h)
    have hzero : b.toNat = 0 := by
      change _ = 0 at hcode
      omega
    obtain rfl : x = 0 := by simpa using hx
    exact (BitVec.eq_of_toNat_eq hzero).symm
  · have hpos : (0 : Rat) < (q : Rat) * 2 ^ (e - 23) := mul_pos (by exact_mod_cast hq) (by positivity)
    have hsign : x < 0 ↔ 2 ^ 31 ≤ b.toNat := by
      rw [hx]
      split_ifs with h
      · exact iff_of_true (neg_neg_of_pos hpos) h
      · exact iff_of_false (not_lt.mpr hpos.le) h
    have habs : |x| = (q : Rat) * 2 ^ (e - 23) := by
      rw [hx]
      split_ifs
      · rw [abs_neg, abs_of_pos hpos]
      · exact abs_of_pos hpos
    have hne : x ≠ 0 := abs_pos.mp (habs ▸ hpos)
    apply BitVec.eq_of_toNat_eq
    rw [toF32_toNat hne, habs, f32Bits_scaled hsig hq hfin.le, ← hcode]
    simp only [hsign]
    split_ifs <;> omega

section
variable {b : F32}

theorem f32Value_nan (he : f32Exponent b = 255) (hm : f32Fraction b ≠ 0) : f32Value b = none := by
  rw [f32Value, if_pos he, if_neg hm]

theorem f32Value_inf (he : f32Exponent b = 255) (hm : f32Fraction b = 0) :
    f32Value b = some (if f32Sign b then .negInf else .posInf) := by
  rw [f32Value, if_pos he, if_pos hm]

theorem f32Value_subnormal (he : f32Exponent b = 0) : f32Value b =
    some (.finite ((if f32Sign b then -1 else 1) * f32Fraction b * (2 : Rat) ^ (-149 : Int))) := by
  have hne : f32Exponent b ≠ 255 := he ▸ by decide
  rw [f32Value, if_neg hne, f32Magnitude, if_pos he, exp2Int_eq_zpow]
  split_ifs <;> simp

theorem f32Value_normal (he0 : 0 < f32Exponent b) (he1 : f32Exponent b < 255) : f32Value b =
    some (.finite ((if f32Sign b then -1 else 1) * (2 ^ 23 + f32Fraction b)
      * (2 : Rat) ^ ((f32Exponent b : Int) - 150))) := by
  have hcast : ((2 ^ 23 + f32Fraction b : Nat) : Rat) = 2 ^ 23 + (f32Fraction b : Rat) := by norm_num
  rw [f32Value, if_neg he1.ne, f32Magnitude, if_neg he0.ne', exp2Int_eq_zpow, hcast]
  split_ifs
  · rw [neg_one_mul, neg_mul]
  · rw [one_mul]

end

/-- Settles O55: the value by the kind of the pattern, the inverse by `toF32_f32Value`. -/
theorem toF32InvertsTheOperandValue : Obligations.ToF32InvertsTheOperandValue := by
  refine ⟨?value, fun b x => toF32_f32Value⟩
  rintro b _ _ _ rfl rfl rfl
  exact ⟨f32Value_nan, f32Value_inf, f32Value_subnormal, f32Value_normal⟩

/-! ### The nearest pattern -/

/-- A finite pattern's value lies on the grid of a binade, or below the binade. -/
theorem f32Value_grid {b : F32} {z : Rat} (hz : f32Value b = some (.finite z)) {e : Int} (he : -126 ≤ e) :
    (∃ j : Int, z = j * 2 ^ (e - 23)) ∨ (-126 < e ∧ |z| < 2 ^ e) := by
  obtain ⟨hexp, hz⟩ := f32Value_finite hz
  obtain ⟨d, q, hsig, hcode, hfin⟩ := exists_significand hexp
  obtain ⟨-, hmag⟩ := f32Magnitude_of_code hsig.subnormal hsig.lt.le hsig.hidden hcode hfin
  rw [hmag] at hz
  rcases le_or_gt e d with hle | hlt
  · left
    obtain ⟨k, rfl⟩ := Int.le.dest hle
    have hpow : (2 : Rat) ^ (e + k - 23) = (2 ^ k : Nat) * 2 ^ (e - 23) := by
      rw [show e + k - 23 = k + (e - 23) by ring, zpow_add₀ two_ne_zero, zpow_natCast]
      push_cast
      ring
    rw [hpow] at hz
    split_ifs at hz
    · exact ⟨-(q * 2 ^ k : Nat), by rw [hz]; push_cast; ring⟩
    · exact ⟨(q * 2 ^ k : Nat), by rw [hz]; push_cast; ring⟩
  · right
    have hsub := hsig.subnormal
    have habs : |z| = (q : Rat) * 2 ^ (d - 23) := by
      have h0 : (0 : Rat) ≤ (q : Rat) * 2 ^ (d - 23) := by positivity
      rw [hz]
      split_ifs
      · rw [abs_neg, abs_of_nonneg h0]
      · exact abs_of_nonneg h0
    refine ⟨by omega, ?_⟩
    calc |z| = (q : Rat) * 2 ^ (d - 23) := habs
      _ < 2 ^ 24 * 2 ^ (d - 23) := by
        gcongr
        exact_mod_cast hsig.lt
      _ = 2 ^ (d + 1) := by
        rw [← zpow_natCast, ← zpow_add₀ two_ne_zero]
        congr 1
        push_cast
        ring
      _ ≤ 2 ^ e := zpow_le_zpow_right₀ one_le_two hlt

/-- No point of the grid, and none below the binade, is nearer a positive number than its rounding. -/
theorem f32Rounded_nearest {x z : Rat} (hx : 0 < x)
    (hz : (∃ j : Int, z = j * 2 ^ (f32Binade x - 23)) ∨ (-126 < f32Binade x ∧ |z| < 2 ^ f32Binade x)) :
    |f32Rounded x - x| ≤ |z - x| ∧
      (z ≠ f32Rounded x → |z - x| = |f32Rounded x - x| → f32Significand x % 2 = 0) := by
  have hunit : (0 : Rat) < 2 ^ (f32Binade x - 23) := by positivity
  have hround : f32Rounded x = f32Significand x * 2 ^ (f32Binade x - 23) := by
    rw [f32Rounded, abs_of_pos hx]
  have hy0 : 0 ≤ exp2Int (23 - f32Binade x) * x := mul_nonneg (exp2Int_pos _).le hx.le
  have hy : x = exp2Int (23 - f32Binade x) * x * 2 ^ (f32Binade x - 23) := by
    rw [exp2Int_eq_zpow, mul_right_comm, ← zpow_add₀ two_ne_zero]
    simp
  have hscale : ∀ w : Rat, |w * 2 ^ (f32Binade x - 23) - x| =
      |w - exp2Int (23 - f32Binade x) * x| * 2 ^ (f32Binade x - 23) := by
    intro w
    nth_rewrite 2 [hy]
    rw [← sub_mul, abs_mul, abs_of_pos hunit]
  rw [hround, hscale]
  rcases hz with ⟨j, rfl⟩ | ⟨hnormal, hbelow⟩
  · obtain ⟨hnear, htie⟩ := roundNearestEven_nearest hy0 j
    rw [hscale]
    refine ⟨mul_le_mul_of_nonneg_right hnear hunit.le, fun hne heq => htie ?_ ?_⟩
    · rintro rfl
      exact hne rfl
    · exact mul_right_cancel₀ hunit.ne' heq
  · obtain ⟨-, hhidden⟩ := unitsOfBinade hx
    obtain ⟨hnear, -⟩ := roundNearestEven_nearest hy0 (2 ^ 23)
    have hcorner : (2 : Rat) ^ f32Binade x = ((2 ^ 23 : Int) : Rat) * 2 ^ (f32Binade x - 23) := by
      rw [zpow_sub₀ two_ne_zero]
      push_cast
      field_simp
    have hle : (2 : Rat) ^ f32Binade x ≤ x := by
      nth_rewrite 2 [hy]
      rw [hcorner]
      push_cast
      exact mul_le_mul_of_nonneg_right (hhidden hnormal) hunit.le
    have hstrict : |(f32Significand x : Rat) - exp2Int (23 - f32Binade x) * x| * 2 ^ (f32Binade x - 23) <
        |z - x| := by
      calc |(f32Significand x : Rat) - exp2Int (23 - f32Binade x) * x| * 2 ^ (f32Binade x - 23)
          ≤ |((2 ^ 23 : Int) : Rat) - exp2Int (23 - f32Binade x) * x| * 2 ^ (f32Binade x - 23) :=
            mul_le_mul_of_nonneg_right hnear hunit.le
        _ = x - 2 ^ f32Binade x := by rw [← hscale, ← hcorner, abs_of_nonpos (by linarith), neg_sub]
        _ < x - z := by linarith [le_abs_self z]
        _ ≤ |z - x| := by rw [abs_sub_comm]; exact le_abs_self _
    exact ⟨hstrict.le, fun _ heq => absurd heq hstrict.ne'⟩

theorem toF32_even {x : Rat} (hx : x ≠ 0) (hcode : f32Bits |x| = f32Code (f32Binade |x|) (f32Significand |x|))
    (heven : f32Significand |x| % 2 = 0) : (toF32 x).getLsbD 0 = false := by
  have hmod : (toF32 x).toNat % 2 = 0 := by
    have := toF32_magnitudeBits hx
    unfold f32Code at hcode
    omega
  rw [BitVec.getLsbD, Nat.testBit_zero, hmod]
  rfl

theorem f32Value_neg_grid {e : Int} {z : Rat}
    (h : (∃ j : Int, z = j * 2 ^ (e - 23)) ∨ (-126 < e ∧ |z| < 2 ^ e)) :
    (∃ j : Int, -z = j * 2 ^ (e - 23)) ∨ (-126 < e ∧ |-z| < 2 ^ e) := by
  rcases h with ⟨j, rfl⟩ | h
  · exact .inl ⟨-j, by push_cast; ring⟩
  · exact .inr (by rwa [abs_neg])

/-- Settles O56: at 0 the rounding is exact; else, up to the sign, by `f32Rounded_nearest`. -/
theorem toF32IsNearest : Obligations.ToF32IsNearest := by
  intro x y z b hy hz
  rcases eq_or_ne x 0 with rfl | hx
  · have h0 : f32Value (toF32 (0 : Rat)) = some (.finite 0) := by decide +kernel
    obtain rfl : y = 0 := by simpa [h0] using hy.symm
    refine ⟨by simp, fun hne htie => absurd ?_ hne⟩
    simpa using htie
  obtain ⟨hval, hcode⟩ := toF32_value hx hy
  have hgrid := f32Value_grid hz (e := f32Binade |x|) (le_max_right _ _)
  have hpos : 0 < |x| := abs_pos.mpr hx
  rcases lt_or_gt_of_ne hx with hneg | hpos'
  · rw [if_pos hneg] at hval
    have habs : |x| = -x := abs_of_neg hneg
    obtain ⟨hnear, htie⟩ := f32Rounded_nearest hpos (f32Value_neg_grid hgrid)
    have hround : f32Rounded |x| = -y := by rw [hval, neg_neg, f32Rounded, f32Rounded, abs_abs]
    have hflip : ∀ w : Rat, |-w - (|x|)| = |w - x| := by
      intro w
      rw [habs, sub_neg_eq_add, neg_add_eq_sub, abs_sub_comm]
    rw [hround, hflip, hflip] at hnear htie
    exact ⟨hnear, fun hne heq => toF32_even hx hcode (htie (fun h => hne (neg_injective h)) heq)⟩
  · rw [if_neg hpos'.not_gt] at hval
    have habs : |x| = x := abs_of_pos hpos'
    obtain ⟨hnear, htie⟩ := f32Rounded_nearest hpos hgrid
    have hround : f32Rounded |x| = y := by rw [hval, f32Rounded, f32Rounded, abs_abs]
    rw [hround, habs] at hnear htie
    exact ⟨hnear, fun hne heq => toF32_even hx hcode (by rw [habs]; exact htie hne heq)⟩

/-! ### The emitted samples -/

/-- The largest sample of a chunk, in units of 2^-24, rounds to the significand of `0x3F715BEF`. -/
theorem clipBound_std_lt : clipBound std 1 * 2 ^ 24 < 15817711 + 1 / 2 := by decide +kernel

theorem f32Bits_of_le_clipBound {x : Scalar} (hx : 0 < x) (hle : x ≤ clipBound std 1) :
    f32Bits x ≤ 0x3F715BEF := by
  have hunits : (2 : Scalar) ^ 24 * x < 15817711 + 1 / 2 := by
    have := clipBound_std_lt
    linarith
  have hbinade : f32Binade x ≤ -1 := by
    have hlt : floorLog2 x < 0 := floorLog2_lt hx (by rw [zpow_zero]; linarith)
    unfold f32Binade
    omega
  have hcode : f32Code (f32Binade x) (f32Significand x) ≤ 0x3F715BEF := by
    rcases hbinade.eq_or_lt with htop | hbelow
    · have hsig : f32Significand x ≤ 15817711 := by
        rw [f32Significand, htop]
        refine roundNearestEven_le (mul_nonneg (exp2Int_pos _).le hx.le) ?_
        rw [exp2Int_eq_zpow]
        norm_num at hunits ⊢
        linarith
      rw [htop, f32Code]
      omega
    · have hsig := f32Significand_le hx
      rw [f32Code]
      omega
  exact (Nat.min_le_left _ _).trans hcode

/-- A sample within the output clip rounds to a pattern of magnitude at most `0x3F715BEF`. -/
theorem toF32_of_le_clipBound {x : Scalar} (h : -clipBound std 1 ≤ x ∧ x ≤ clipBound std 1) :
    (toF32 x).toNat % 2 ^ 31 ≤ 0x3F715BEF := by
  rcases eq_or_ne x 0 with rfl | hx
  · rw [toF32, if_pos rfl]
    decide
  · rw [toF32_magnitudeBits hx]
    exact f32Bits_of_le_clipBound (abs_pos.mpr hx) (abs_le.mpr h)

/-- R291: both halves equal, of magnitude at most `0x3F715BEF`. -/
def Frame.BelowOne (f : Frame) : Prop := f.right = f.left ∧ f.left.toNat % 2 ^ 31 ≤ 0x3F715BEF

section
variable {s : StateOf Scalar}

/-- The entry at the cursor is one of the chunk's. -/
theorem StateOf.Inv.chunkSample_mem (h : s.Inv std) :
    -clipBound std std.aMaster ≤ s.chunkSample ∧ s.chunkSample ≤ clipBound std std.aMaster := by
  have hlt : s.cursor < s.chunk.length := h.chunkLength.symm ▸ h.cursor
  refine h.chunk _ ?_
  rw [StateOf.chunkSample, List.getD_eq_getElem _ _ hlt]
  exact List.getElem_mem hlt

theorem StateOf.Inv.processFrame_belowOne (h : s.Inv std) (hp : s.prepared = true) :
    ∃ f : Frame, (Machine.processFrame std s).frames = f :: s.frames ∧ f.BelowOne := by
  by_cases h0 : s.cursor = 0
  · rw [processFrame_of_cursor_zero std h0]
    exact ⟨_, rfl, rfl, toF32_of_le_clipBound (h.regenerate std_lawful hp).chunkSample_mem⟩
  · rw [processFrame_of_cursor_ne_zero std h0]
    exact ⟨_, rfl, rfl, toF32_of_le_clipBound h.chunkSample_mem⟩

theorem StateOf.Inv.processFrames_belowOne (n : Nat) (h : s.Inv std) (hp : s.prepared = true) :
    ∃ new : List Frame, (Machine.processFrames std n s).frames = new ++ s.frames ∧
      ∀ f ∈ new, f.BelowOne := by
  induction n generalizing s with
  | zero => exact ⟨[], rfl, by simp⟩
  | succ n ih =>
    obtain ⟨-, hkept, -⟩ := processFrame_keeps std s
    obtain ⟨f, hf, hbelow⟩ := h.processFrame_belowOne hp
    obtain ⟨new, hnew, hall⟩ := ih (h.processFrame std_lawful hp) (hkept.trans hp)
    refine ⟨new ++ [f], by rw [Machine.processFrames, hnew, hf, List.append_assoc]; rfl, ?_⟩
    intro g hg
    rcases List.mem_append.mp hg with hg | hg
    · exact hall g hg
    · exact List.mem_singleton.mp hg ▸ hbelow

theorem StateOf.Inv.processCommand_belowOne (h : s.Inv std) (a : Half) :
    ∃ new : List Frame, (processCommand std a s).frames = new ++ s.frames ∧ ∀ f ∈ new, f.BelowOne := by
  obtain ⟨hp, he⟩ | ⟨-, he⟩ := processCommand_cases std a s <;> rw [he]
  · exact h.processFrames_belowOne _ hp
  · refine ⟨_, StateOf.emitSilence_frames s a.toNat, fun f hf => ?_⟩
    obtain rfl := List.eq_of_mem_replicate hf
    exact ⟨rfl, by decide⟩

end

/-- Every command's new frames. -/
theorem exec_belowOne {i : Instr} {s t : State} (h : s.Inv) (ht : exec i s = .next t) :
    ∃ new : List Frame, t.frames = new ++ s.frames ∧ ∀ f ∈ new, f.BelowOne := by
  by_cases hi : ∃ a, i = .process a
  · obtain ⟨a, rfl⟩ := hi
    rw [exec_eq] at ht
    obtain rfl := Host.Outcome.next.inj ht
    exact StateOf.Inv.processCommand_belowOne h a
  · obtain ⟨-, -, hframes, -⟩ := (eachCommandWritesOnlyItsOwnState i s t ht).2.2.1 fun a ha => hi ⟨a, ha⟩
    exact ⟨[], hframes, by simp⟩

/-- Settles O32: a step emits what its command does, and PROCESS emits samples within the output clip. -/
theorem emittedSamplesStayBelowOne : Obligations.EmittedSamplesStayBelowOne := by
  intro s t h ht
  obtain ⟨-, he⟩ | ⟨w, ws, -, ⟨i, -, he⟩ | ⟨why, -, he⟩⟩ := blockStep_cases std s.toStateOf <;>
    rw [step_eq, he] at ht
  · obtain rfl := Host.Outcome.next.inj ht
    exact ⟨[], rfl, by simp⟩
  · refine exec_belowOne (s := s.setInbox ws) (StateOf.Inv.setInbox h ws) (i := i) ?_
    rw [exec_eq]
    exact ht
  · obtain rfl := Host.Outcome.next.inj ht
    exact ⟨[], rfl, by simp⟩

end Sys2Proof.Machine
end

section
/-! SUPPORT. The executable arithmetic against the real functions: scaled integers and the square root
(40_numeric_primitives.md R111, log 1). -/

namespace Sys2Proof.Machine

/-! ### Scaled integers as real numbers -/

/-- The number that a scaled integer stands for. -/
noncomputable def fix (n : Nat) : ℝ := n / oneScaled

/-- The unit of the scaled integers. -/
noncomputable def ulp : ℝ := 1 / oneScaled

theorem oneScaled_pos : (0 : ℝ) < oneScaled := by
  unfold oneScaled
  positivity

theorem ulp_pos : 0 < ulp := one_div_pos.mpr oneScaled_pos

theorem ulp_le : ulp ≤ 1 / 10 ^ 60 := by
  have h : (10 : ℝ) ^ 60 ≤ 2 ^ workBits :=
    (by norm_num : (10 : ℝ) ^ 60 ≤ 2 ^ 200).trans (pow_le_pow_right₀ one_le_two (by decide))
  unfold ulp oneScaled
  push_cast
  exact one_div_le_one_div_of_le (by positivity) h

theorem fix_nonneg (n : Nat) : 0 ≤ fix n := div_nonneg n.cast_nonneg oneScaled_pos.le

theorem fix_oneScaled : fix oneScaled = 1 := div_self oneScaled_pos.ne'

theorem fix_add (m n : Nat) : fix (m + n) = fix m + fix n := by
  unfold fix
  push_cast
  exact add_div _ _ _

theorem fix_le_fix_iff {m n : Nat} : fix m ≤ fix n ↔ m ≤ n := by
  unfold fix
  rw [div_le_div_iff_of_pos_right oneScaled_pos, Nat.cast_le]

theorem fix_sub {m n : Nat} (h : n ≤ m) : fix (m - n) = fix m - fix n := by
  unfold fix
  rw [Nat.cast_sub h, sub_div]

/-- A quotient rounded down is less than 1 below the quotient. -/
theorem natDiv_near (a : Nat) {b : Nat} (hb : 0 < b) : |((a / b : Nat) : ℝ) - (a : ℝ) / b| ≤ 1 := by
  have hb' : (0 : ℝ) < b := Nat.cast_pos.mpr hb
  have hmod : (a : ℝ) / b = ((a / b : Nat) : ℝ) + ((a % b : Nat) : ℝ) / b := by
    rw [← mul_div_cancel_left₀ ((a / b : Nat) : ℝ) hb'.ne', ← add_div]
    congr 1
    exact_mod_cast (Nat.div_add_mod a b).symm
  have hlt : ((a % b : Nat) : ℝ) / b ≤ 1 := by
    rw [div_le_one hb']
    exact_mod_cast (Nat.mod_lt a hb).le
  have hnn : 0 ≤ ((a % b : Nat) : ℝ) / b := by positivity
  rw [hmod, sub_add_cancel_left, abs_neg, abs_of_nonneg hnn]
  exact hlt

/-- A scaled quotient is within a unit of the quotient of what is scaled. -/
theorem fix_div_near (a : Nat) {b : Nat} (hb : 0 < b) : |fix (a / b) - (a : ℝ) / b / oneScaled| ≤ ulp := by
  unfold fix ulp
  rw [← sub_div, abs_div, abs_of_pos oneScaled_pos]
  exact div_le_div_of_nonneg_right (natDiv_near a hb) oneScaled_pos.le

/-- A scaled product divided by `k`. -/
theorem fix_mul_div_near (m n : Nat) {k : Nat} (hk : 0 < k) :
    |fix (m * n / (k * oneScaled)) - fix m * fix n / k| ≤ ulp := by
  have hone := oneScaled_pos
  have hk' : (0 : ℝ) < k := Nat.cast_pos.mpr hk
  have hquot : ((m * n : Nat) : ℝ) / ((k * oneScaled : Nat) : ℝ) / oneScaled = fix m * fix n / k := by
    unfold fix
    push_cast
    field_simp
  rw [← hquot]
  exact fix_div_near _ (Nat.mul_pos hk (by exact_mod_cast hone))

theorem fix_mul_near (m n : Nat) : |fix (m * n / oneScaled) - fix m * fix n| ≤ ulp := by
  have h := fix_mul_div_near m n Nat.one_pos
  simpa only [one_mul, Nat.cast_one, div_one] using h

theorem fix_scaled_near {x : Scalar} (hx : 0 ≤ x) : |fix (scaled x) - (x : ℝ)| ≤ ulp := by
  have hval : (x : ℝ) = ((oneScaled * x.num.toNat : Nat) : ℝ) / x.den / oneScaled := by
    have hnum : ((x.num.toNat : Nat) : ℝ) = (x.num : ℝ) := by
      exact_mod_cast congrArg (Int.cast : Int → ℝ) (Int.toNat_of_nonneg (Rat.num_nonneg.mpr hx))
    push_cast
    rw [hnum, Rat.cast_def, mul_div_assoc, mul_div_cancel_left₀ _ oneScaled_pos.ne']
  rw [hval]
  exact fix_div_near _ x.den_pos

/-- A scaled integer as a grid integer, before it is cut. -/
theorem fix_eq_grid (n : Nat) : fix n = (n : ℝ) / 2 ^ 64 / 2 ^ gridBits := by
  have hpow : (oneScaled : ℝ) = 2 ^ 64 * 2 ^ gridBits := by
    rw [← pow_add]
    exact Nat.cast_pow 2 workBits
  rw [fix, hpow, div_div]

/-- A scaled integer rounded to the grid. -/
theorem ofScaled_near (n : Nat) : |((ofScaled n : Scalar) : ℝ) - fix n| ≤ 1 / 10 ^ 60 := by
  have hval : ((ofScaled n : Scalar) : ℝ) = (((2 ^ 63 + n) / 2 ^ 64 : Nat) : ℝ) / 2 ^ gridBits := by
    change (((mkRat (((2 ^ 63 + n) / 2 ^ 64 : Nat) : Int) (2 ^ gridBits) : Rat)) : ℝ) = _
    rw [Rat.mkRat_eq_div]
    push_cast
    rfl
  have hcut : |(((2 ^ 63 + n) / 2 ^ 64 : Nat) : ℝ) - (n : ℝ) / 2 ^ 64| ≤ 2 := by
    have hdiv := natDiv_near (2 ^ 63 + n) (b := 2 ^ 64) (by norm_num)
    have hhalf : ((2 ^ 63 + n : Nat) : ℝ) / ((2 ^ 64 : Nat) : ℝ) = (n : ℝ) / 2 ^ 64 + 1 / 2 := by
      push_cast
      ring
    rw [hhalf] at hdiv
    rw [abs_le] at hdiv ⊢
    constructor <;> linarith [hdiv.1, hdiv.2]
  have hgrid : (0 : ℝ) < 2 ^ gridBits := by positivity
  have hsmall : (2 : ℝ) ≤ 1 / 10 ^ 60 * 2 ^ gridBits := by
    have h : (2 : ℝ) ^ 201 ≤ 2 ^ gridBits := pow_le_pow_right₀ one_le_two (by decide)
    norm_num at h ⊢
    linarith
  rw [hval, fix_eq_grid, ← sub_div, abs_div, abs_of_pos hgrid, div_le_iff₀ hgrid]
  exact hcut.trans hsmall

/-! ### The square root -/

/-- The bits found one by one: from a root that is low by less than `2 ^ b` to the root. -/
theorem lt_isqrtFrom_succ_sq {n : Nat} (b r : Nat) (h : n < (r + 2 ^ b) * (r + 2 ^ b)) :
    n < (isqrtFrom n b r + 1) * (isqrtFrom n b r + 1) := by
  induction b generalizing r with
  | zero => exact h
  | succ b ih =>
    unfold isqrtFrom
    split_ifs with hbit
    · refine ih _ ?_
      rw [show 2 ^ b + r + 2 ^ b = r + 2 ^ (b + 1) by ring]
      exact h
    · refine ih _ ?_
      rw [add_comm r]
      exact not_le.mp hbit

/-- The integer square root of `n`. -/
theorem isqrtFrom_spec (n : Nat) : isqrtFrom n (n.log2 + 1) 0 * isqrtFrom n (n.log2 + 1) 0 ≤ n ∧
    n < (isqrtFrom n (n.log2 + 1) 0 + 1) * (isqrtFrom n (n.log2 + 1) 0 + 1) := by
  refine ⟨isqrtFrom_sq_le n _ 0 (Nat.zero_le _), lt_isqrtFrom_succ_sq _ 0 ?_⟩
  rw [zero_add]
  exact Nat.lt_log2_self.trans_le (Nat.le_mul_self _)

theorem ratSqrt_eq_isqrtFrom {x : Scalar} {n : Nat} (hn : n = 2 ^ (2 * gridBits) * x.num.toNat / x.den) :
    ratSqrt x = (isqrtFrom n (n.log2 + 1) 0 : Scalar) / 2 ^ gridBits := by
  subst hn
  unfold ratSqrt
  rw [Rat.mkRat_eq_div]
  push_cast
  rfl

/-- A number is below the successor of its integer part on the grid. -/
theorem mul_lt_succ_gridQuotient {x : Scalar} (hx : 0 ≤ x) (g : Nat) :
    x * g < ((g * x.num.toNat / x.den + 1 : Nat) : Scalar) := by
  have hden : (0 : Scalar) < x.den := Nat.cast_pos.mpr x.den_pos
  have hnum : x * x.den = x.num.toNat := by
    rw [Rat.mul_den_eq_num]
    exact_mod_cast (Int.toNat_of_nonneg (Rat.num_nonneg.mpr hx)).symm
  have hquot : g * x.num.toNat < (g * x.num.toNat / x.den + 1) * x.den := by
    rw [add_mul, one_mul]
    exact Nat.lt_div_mul_add x.den_pos
  refine lt_of_mul_lt_mul_right ?_ hden.le
  rw [mul_right_comm, hnum, mul_comm]
  exact_mod_cast hquot

/-- The square root as a multiple of `2 ^ -256`, whose successor's square is above `x`. -/
theorem exists_ratSqrt {x : Scalar} (hx : 0 ≤ x) : ∃ r : Nat, ratSqrt x = (r : Scalar) / 2 ^ gridBits ∧
    x * (2 ^ gridBits) ^ 2 < ((r : Scalar) + 1) ^ 2 := by
  obtain ⟨n, hn⟩ : ∃ n, n = 2 ^ (2 * gridBits) * x.num.toNat / x.den := ⟨_, rfl⟩
  refine ⟨_, ratSqrt_eq_isqrtFrom hn, ?_⟩
  have hlt := mul_lt_succ_gridQuotient hx (2 ^ (2 * gridBits))
  rw [← hn, Nat.cast_pow, Nat.cast_ofNat, mul_comm 2 gridBits, pow_mul] at hlt
  refine hlt.trans_le ?_
  rw [sq]
  exact_mod_cast (isqrtFrom_spec n).2

/-- Settles O59: the integer root's bracket, over the grid's unit. -/
theorem squareRootIsBracketed : Obligations.SquareRootIsBracketed := by
  intro x hx
  obtain ⟨r, hr, hlt⟩ := exists_ratSqrt hx
  refine ⟨⟨r, hr⟩, ?_, ?_, ?_⟩
  · change 0 ≤ ratSqrt x
    rw [hr]
    positivity
  · rw [sq]
    exact ratSqrt_sq_le hx
  · change x < (ratSqrt x + 1 / 2 ^ 256) ^ 2
    rw [hr, ← gridBits, ← add_div, div_pow, lt_div_iff₀ (by positivity)]
    exact hlt

end Sys2Proof.Machine
end

section
/-! SUPPORT. The power of two of the executable block against the real one (40_numeric_primitives.md R111,
log 1): the series as Horner's rule sums it, its rounding, its remainder and the model's `ln 2`. -/

namespace Sys2Proof.Machine

/-! ### Horner's rule for the exponential series -/

/-- The exponential series up to term `k`, whose coefficient `a` stands for the terms from `k` on. -/
noncomputable def expTail (x : ℝ) (k : Nat) (a : ℝ) : ℝ :=
  ∑ j ∈ Finset.range k, x ^ j / j.factorial + a * (x ^ k / k.factorial)

theorem expTail_zero (x a : ℝ) : expTail x 0 a = a := by
  simp [expTail]

/-- One step of Horner's rule. -/
theorem expTail_succ (x : ℝ) (k : Nat) (a : ℝ) :
    expTail x (k + 1) a = expTail x k (1 + a * x / (k + 1 : Nat)) := by
  have hfact : (k.factorial : ℝ) ≠ 0 := Nat.cast_ne_zero.mpr k.factorial_ne_zero
  unfold expTail
  rw [Finset.sum_range_succ, Nat.factorial_succ]
  push_cast
  field_simp
  ring

theorem expTail_one (x : ℝ) (k : Nat) :
    expTail x k 1 = ∑ j ∈ Finset.range (k + 1), x ^ j / j.factorial := by
  rw [Finset.sum_range_succ, expTail, one_mul]

/-- For an argument in [0, 1] an error in the coefficient does not grow. -/
theorem expTail_lipschitz {x : ℝ} (h0 : 0 ≤ x) (h1 : x ≤ 1) (k : Nat) (a b : ℝ) :
    |expTail x k a - expTail x k b| ≤ |a - b| := by
  have hterm : x ^ k / k.factorial ≤ 1 :=
    (div_le_one (by positivity)).mpr ((pow_le_one₀ h0 h1).trans (by exact_mod_cast k.factorial_pos))
  have hdiff : expTail x k a - expTail x k b = (a - b) * (x ^ k / k.factorial) := by
    unfold expTail
    ring
  rw [hdiff, abs_mul, abs_of_nonneg (by positivity : 0 ≤ x ^ k / (k.factorial : ℝ))]
  exact mul_le_of_le_one_right (abs_nonneg _) hterm

/-- The kernel would count `oneScaled` down in the lemma that unfolding generates. -/
theorem expHorner_succ (x k acc : Nat) :
    expHorner x (k + 1) acc = expHorner x k (oneScaled + acc * x / ((k + 1) * oneScaled)) := by
  delta expHorner
  dsimp only

/-- Each step of the scaled Horner rule rounds by at most a unit. -/
theorem expHorner_near {x : Nat} (hx : fix x ≤ 1) (k acc : Nat) :
    |fix (expHorner x k acc) - expTail (fix x) k (fix acc)| ≤ k * ulp := by
  induction k generalizing acc with
  | zero =>
    change |fix acc - _| ≤ _
    simp [expTail_zero]
  | succ k ih =>
    have hround := fix_mul_div_near acc x k.succ_pos
    have hstep : |fix (oneScaled + acc * x / ((k + 1) * oneScaled)) - (1 + fix acc * fix x / (k + 1 : Nat))|
        ≤ ulp := by
      rw [fix_add, fix_oneScaled, add_sub_add_left_eq_sub]
      exact hround
    have hrest := ih (oneScaled + acc * x / ((k + 1) * oneScaled))
    have hlip := (expTail_lipschitz (fix_nonneg x) hx k _ _).trans hstep
    rw [expHorner_succ, expTail_succ]
    calc |fix (expHorner x k (oneScaled + acc * x / ((k + 1) * oneScaled))) -
          expTail (fix x) k (1 + fix acc * fix x / (k + 1 : Nat))| ≤ k * ulp + ulp :=
          (abs_sub_le _ _ _).trans (add_le_add hrest hlip)
      _ = (k + 1 : Nat) * ulp := by push_cast; ring

/-- The first 73 terms of the series. -/
theorem expTail_near_exp {x : ℝ} (h0 : 0 ≤ x) (h1 : x ≤ 1) : |expTail x 72 1 - Real.exp x| ≤ 1 / 10 ^ 60 := by
  have habs : |x| ≤ 1 := abs_le.mpr ⟨by linarith, h1⟩
  have hbound := Real.exp_bound habs (n := 73) (by decide)
  have hsmall : ((Nat.succ 73 : Nat) : ℝ) / ((Nat.factorial 73 : Nat) * (73 : Nat)) ≤ 1 / 10 ^ 60 := by
    norm_num [Nat.factorial]
  rw [expTail_one, abs_sub_comm]
  refine hbound.trans ((mul_le_of_le_one_left (by positivity) (pow_le_one₀ (abs_nonneg x) habs)).trans ?_)
  exact hsmall

/-! ### The power of two in the unit interval -/

/-- The model's logarithm of 2. -/
theorem fix_ln2Scaled_near : |fix ln2Scaled - Real.log 2| ≤ 2 / 10 ^ 10 := by
  have hreal := Real.log_two_near_10
  have hmodel : |fix ln2Scaled - 287209 / 414355| ≤ 1 / 10 ^ 10 := by
    rw [fix, ln2Scaled, oneScaled, workBits, show 320 = 160 + 160 from rfl, pow_add, abs_le]
    constructor <;> norm_num
  rw [abs_le] at *
  constructor <;> linarith [hreal.1, hreal.2, hmodel.1, hmodel.2]

/-- The scaled argument of the series. -/
theorem fix_expArgument_near {r : Scalar} (h0 : 0 ≤ r) (h1 : r < 1) :
    |fix (ln2Scaled * scaled r / oneScaled) - Real.log 2 * r| ≤ 201 / 10 ^ 12 := by
  have hr0 : (0 : ℝ) ≤ r := by exact_mod_cast h0
  have hr1 : (r : ℝ) ≤ 1 := by exact_mod_cast h1.le
  have hulp := ulp_le
  have hln := fix_ln2Scaled_near
  have hlog := Real.log_two_lt_d9
  have hln1 : fix ln2Scaled ≤ 1 := by linarith [(abs_le.mp hln).2]
  have hprod := fix_mul_near ln2Scaled (scaled r)
  have hscaled : |fix ln2Scaled * (fix (scaled r) - r)| ≤ ulp := by
    rw [abs_mul, abs_of_nonneg (fix_nonneg _)]
    exact (mul_le_of_le_one_left (abs_nonneg _) hln1).trans (fix_scaled_near h0)
  have hlog' : |(fix ln2Scaled - Real.log 2) * r| ≤ 2 / 10 ^ 10 := by
    rw [abs_mul, abs_of_nonneg hr0]
    exact (mul_le_of_le_one_right (abs_nonneg _) hr1).trans hln
  rw [abs_le] at *
  constructor <;> nlinarith [hprod.1, hprod.2, hscaled.1, hscaled.2, hlog'.1, hlog'.2]

theorem clamp_near {x lo hi : Scalar} {y e : ℝ} (hlohi : lo ≤ hi) (hlo : (lo : ℝ) ≤ y) (hhi : y ≤ (hi : ℝ))
    (h : |(x : ℝ) - y| ≤ e) : |((clamp x lo hi : Scalar) : ℝ) - y| ≤ e := by
  have he : 0 ≤ e := (abs_nonneg _).trans h
  rw [abs_le] at *
  rcases le_total x lo with hx | hx
  · have hx' : (x : ℝ) ≤ lo := by exact_mod_cast hx
    rw [clamp_of_le hlohi hx]
    constructor <;> linarith [h.1, h.2]
  · rcases le_total hi x with hx' | hx'
    · have hx'' : (hi : ℝ) ≤ x := by exact_mod_cast hx'
      rw [clamp_of_ge hlohi hx']
      constructor <;> linarith [h.1, h.2]
    · rw [clamp_of_mem hx hx']
      exact h

/-- The power of two in [0, 1): most of the error is that of `Real.log_two_near_10`. -/
theorem exp2Frac_near {r : Scalar} (h0 : 0 ≤ r) (h1 : r < 1) :
    |((exp2Frac r : Scalar) : ℝ) - (2 : ℝ) ^ (r : ℝ)| ≤ 43 / 10 ^ 11 * (2 : ℝ) ^ (r : ℝ) := by
  have hr0 : (0 : ℝ) ≤ r := by exact_mod_cast h0
  have hr1 : (r : ℝ) ≤ 1 := by exact_mod_cast h1.le
  have hpow1 : (1 : ℝ) ≤ 2 ^ (r : ℝ) := Real.one_le_rpow one_le_two hr0
  have hpow2 : (2 : ℝ) ^ (r : ℝ) ≤ 2 := by
    simpa only [Real.rpow_one] using Real.rpow_le_rpow_of_exponent_le one_le_two hr1
  refine clamp_near (by norm_num) (by exact_mod_cast hpow1) (by exact_mod_cast hpow2) ?_
  have harg := fix_expArgument_near h0 h1
  have hlog := Real.log_two_lt_d9
  have hpos := Real.log_pos one_lt_two
  generalize ln2Scaled * scaled r / oneScaled = x at *
  have hx0 := fix_nonneg x
  have hx1 : fix x ≤ 1 := by nlinarith [(abs_le.mp harg).2]
  have hhorner := expHorner_near hx1 72 oneScaled
  rw [fix_oneScaled] at hhorner
  have hseries := expTail_near_exp hx0 hx1
  have hround := ofScaled_near (expHorner x 72 oneScaled)
  have hexp : |Real.exp (fix x) - 2 ^ (r : ℝ)| ≤ 402 / 10 ^ 12 * 2 ^ (r : ℝ) := by
    have hsplit : Real.exp (fix x) - 2 ^ (r : ℝ) = (Real.exp (fix x - Real.log 2 * r) - 1) * 2 ^ (r : ℝ) := by
      rw [sub_mul, one_mul, Real.rpow_def_of_pos two_pos, ← Real.exp_add, sub_add_cancel]
    have hone := Real.abs_exp_sub_one_le (harg.trans (by norm_num))
    rw [hsplit, abs_mul, abs_of_pos (by positivity : (0 : ℝ) < 2 ^ (r : ℝ))]
    refine mul_le_mul_of_nonneg_right ?_ (by positivity)
    linarith
  have hulp := ulp_le
  rw [abs_le] at *
  push_cast at hhorner
  constructor <;>
    linarith [hhorner.1, hhorner.2, hseries.1, hseries.2, hround.1, hround.2, hexp.1, hexp.2]

/-! ### Every power of two -/

theorem ratPow2_near (x : Scalar) :
    |((ratPow2 x : Scalar) : ℝ) - (2 : ℝ) ^ (x : ℝ)| ≤ 43 / 10 ^ 11 * (2 : ℝ) ^ (x : ℝ) := by
  have hval : ((ratPow2 x : Scalar) : ℝ) = 2 ^ ⌊x⌋ * ((exp2Frac (frac x) : Scalar) : ℝ) := by
    rw [ratPow2, exp2Int_eq_zpow]
    push_cast
    rfl
  have hreal : (2 : ℝ) ^ (x : ℝ) = 2 ^ ⌊x⌋ * 2 ^ ((frac x : Scalar) : ℝ) := by
    have hx : (x : ℝ) = (⌊x⌋ : ℝ) + ((frac x : Scalar) : ℝ) := by
      exact_mod_cast (Int.floor_add_fract x).symm
    conv_lhs => rw [hx, Real.rpow_add two_pos, Real.rpow_intCast]
  have hint : (0 : ℝ) < 2 ^ ⌊x⌋ := by positivity
  rw [hval, hreal, ← mul_sub, abs_mul, abs_of_pos hint, mul_left_comm]
  exact mul_le_mul_of_nonneg_left (exp2Frac_near (frac_nonneg x) (frac_lt_one x)) hint.le

/-- Settles O58: the integer part exactly, the fraction by the series. -/
theorem powerOfTwoIsTheRealPower : Obligations.PowerOfTwoIsTheRealPower := by
  refine ⟨fun x => ?_, fun n => ?_, ratPow2_add_int⟩
  · refine (ratPow2_near x).trans (mul_le_mul_of_nonneg_right (by norm_num) (by positivity))
  · change ratPow2 n = 2 ^ n
    rw [ratPow2_intCast, exp2Int_eq_zpow]

/-- Settles O43: the formula by definition, the distance from the model's power of two. -/
theorem noteFrequencyIsEqualTempered : Obligations.NoteFrequencyIsEqualTempered := by
  intro n shift detune pitchMod freq hfreq
  refine ⟨rfl, ?_⟩
  have hnear := ratPow2_near (((n.val : Scalar) + 12 * (shift : Scalar) + detune + pitchMod - 69) / 12)
  have hval : ((oscFrequency std n shift detune pitchMod : Scalar) : ℝ) =
      440 * ((ratPow2 (((n.val : Scalar) + 12 * (shift : Scalar) + detune + pitchMod - 69) / 12) : Scalar) : ℝ) := by
    rw [← Rat.cast_ofNat (α := ℝ) (n := 440), ← Rat.cast_mul]
    rfl
  push_cast at hnear
  rw [hval, hfreq, ← mul_sub, abs_mul, abs_of_pos (by norm_num : (0 : ℝ) < 440)]
  have hpos : (0 : ℝ) < 2 ^ (((n.val : ℝ) + 12 * (shift : ℝ) + (detune : ℝ) + (pitchMod : ℝ) - 69) / 12) := by
    positivity
  linarith

end Sys2Proof.Machine
end

section
/-! SUPPORT. The ease against the real one (40_numeric_primitives.md R109). -/

namespace Sys2Proof.Machine

/-! ### The ease -/

theorem std_ease_near {u : Scalar} (h0 : 0 ≤ u) :
    |((std.ease (1 / 2) u : Scalar) : ℝ) - (1 - ((2 : ℝ) ^ (9 * (1 - (u : ℝ))) - 1) / 511)| ≤ 1 / 10 ^ 8 := by
  have hu0 : (0 : ℝ) ≤ u := by exact_mod_cast h0
  have hnear := ratPow2_near (9 * (1 - u))
  have hval : ((std.ease (1 / 2) u : Scalar) : ℝ) = 1 - (((ratPow2 (9 * (1 - u)) : Scalar) : ℝ) - 1) / 511 := by
    rw [show std.ease (1 / 2) u = _ from ease_half ratNum_assumed u]
    push_cast
    rfl
  push_cast at hnear
  have hle : (2 : ℝ) ^ (9 * (1 - (u : ℝ))) ≤ 512 :=
    calc (2 : ℝ) ^ (9 * (1 - (u : ℝ))) ≤ 2 ^ (9 : ℝ) :=
          Real.rpow_le_rpow_of_exponent_le one_le_two (by linarith)
      _ = 512 := by norm_num
  rw [hval]
  rw [abs_le] at *
  constructor <;> linarith [hnear.1, hnear.2]

/-- The real ease, `1 - (2 ^ (9 (1 - u)) - 1) / 511`. -/
noncomputable def realEase (u : ℝ) : ℝ := 1 - ((2 : ℝ) ^ (9 * (1 - u)) - 1) / 511

theorem realEase_strictMono : StrictMono realEase := by
  intro u v huv
  have hpow : (2 : ℝ) ^ (9 * (1 - v)) < 2 ^ (9 * (1 - u)) :=
    Real.rpow_lt_rpow_of_exponent_lt one_lt_two (by linarith)
  unfold realEase
  linarith

/-- The power of two is convex, and the ease is it mirrored and turned over. -/
theorem realEase_concaveOn : ConcaveOn ℝ (Set.Icc 0 1) realEase := by
  refine ⟨convex_Icc 0 1, fun u _ v _ a b ha hb hab => ?_⟩
  have hconvex := (convexOn_rpow_left two_pos).2 (Set.mem_univ (9 * (1 - u))) (Set.mem_univ (9 * (1 - v)))
    ha hb hab
  have harg : a • (9 * (1 - u)) + b • (9 * (1 - v)) = 9 * (1 - (a • u + b • v)) := by
    simp only [smul_eq_mul]
    linear_combination 9 * hab
  rw [harg] at hconvex
  simp only [smul_eq_mul] at *
  unfold realEase
  linarith

/-- Settles O54: the formula from the assumed properties of the power of two, the distance from that of the
model's, and the real ease from the monotone and convex real power. -/
theorem easeRunsFromZeroToOne : Obligations.EaseRunsFromZeroToOne := by
  refine ⟨std_ease_zero, std_ease_one, fun u h0 h1 => ?_, ?_⟩
  · obtain ⟨hnonneg, hle⟩ := ease_isUnary ratNum_assumed ⟨h0, h1⟩
    exact ⟨ease_half ratNum_assumed u, hnonneg, hle, std_ease_near h0⟩
  · rintro nVoices chunk osc2Pw p draw seed c rfl
    have hassumed := realNum_exact.toAssumed
    have hease : (exactBlock nVoices chunk osc2Pw p draw seed).ease
        (exactBlock nVoices chunk osc2Pw p draw seed).curveParam = realEase :=
      funext fun u => ease_half hassumed u
    rw [hease]
    exact ⟨fun u => rfl, hease ▸ ease_half_zero hassumed, hease ▸ ease_half_one hassumed,
      realEase_strictMono.strictMonoOn _, realEase_concaveOn⟩

end Sys2Proof.Machine
end

section
/-! SUPPORT. The sine and `pi` of the executable block against the real ones (40_numeric_primitives.md R111,
log 1): Horner's rule for `sin x / x`, the remainder of the series, and the reduction to a quarter turn. -/

namespace Sys2Proof.Machine

/-! ### Horner's rule for the sine series -/

/-- The series of `sin x / x` in `w = x ^ 2` up to term `k`, whose coefficient `a` stands for the terms from
`k` on. -/
noncomputable def sinTail (w : ℝ) (k : Nat) (a : ℝ) : ℝ :=
  ∑ j ∈ Finset.range k, (-w) ^ j / (2 * j + 1).factorial + a * ((-w) ^ k / (2 * k + 1).factorial)

theorem sinTail_zero (w a : ℝ) : sinTail w 0 a = a := by
  simp [sinTail]

theorem factorial_two_mul_succ (k : Nat) :
    (2 * (k + 1) + 1).factorial = (2 * k + 2) * (2 * k + 3) * (2 * k + 1).factorial := by
  rw [show 2 * (k + 1) + 1 = 2 * k + 1 + 1 + 1 by ring, Nat.factorial_succ, Nat.factorial_succ]
  ring

/-- One step of Horner's rule. -/
theorem sinTail_succ (w : ℝ) (k : Nat) (a : ℝ) :
    sinTail w (k + 1) a = sinTail w k (1 - a * w / ((2 * k + 2) * (2 * k + 3) : Nat)) := by
  have hfact : ((2 * k + 1).factorial : ℝ) ≠ 0 := Nat.cast_ne_zero.mpr (Nat.factorial_ne_zero _)
  unfold sinTail
  rw [Finset.sum_range_succ, factorial_two_mul_succ]
  push_cast
  generalize ((2 * k + 1).factorial : ℝ) = f at *
  field_simp
  ring

theorem sinTail_one (w : ℝ) (k : Nat) :
    sinTail w k 1 = ∑ j ∈ Finset.range (k + 1), (-w) ^ j / (2 * j + 1).factorial := by
  rw [Finset.sum_range_succ, sinTail, one_mul]

theorem four_pow_le_factorial (k : Nat) : 4 ^ k ≤ (2 * k + 1).factorial := by
  induction k with
  | zero => decide
  | succ k ih =>
    rw [factorial_two_mul_succ, pow_succ, mul_comm]
    exact Nat.mul_le_mul (by nlinarith) ih

/-- For an argument up to 2 an error in the coefficient does not grow. -/
theorem sinTail_lipschitz {w : ℝ} (h0 : 0 ≤ w) (h4 : w ≤ 4) (k : Nat) (a b : ℝ) :
    |sinTail w k a - sinTail w k b| ≤ |a - b| := by
  have hpos : (0 : ℝ) < (2 * k + 1).factorial := Nat.cast_pos.mpr (Nat.factorial_pos _)
  have hterm : |(-w) ^ k / ((2 * k + 1).factorial : ℝ)| ≤ 1 := by
    rw [abs_div, abs_pow, abs_neg, abs_of_nonneg h0, abs_of_pos hpos, div_le_one hpos]
    exact (pow_le_pow_left₀ h0 h4 k).trans (by exact_mod_cast four_pow_le_factorial k)
  have hdiff : sinTail w k a - sinTail w k b = (a - b) * ((-w) ^ k / (2 * k + 1).factorial) := by
    unfold sinTail
    ring
  rw [hdiff, abs_mul]
  exact mul_le_of_le_one_right (abs_nonneg _) hterm

/-- The kernel would count `oneScaled` down in the lemma that unfolding generates. -/
theorem sinHorner_succ (x2 k acc : Nat) : sinHorner x2 (k + 1) acc =
    sinHorner x2 k (oneScaled - acc * x2 / ((2 * k + 2) * (2 * k + 3) * oneScaled)) := by
  delta sinHorner
  dsimp only

/-- Each step of the scaled Horner rule rounds by at most a unit. -/
theorem sinHorner_near {x2 : Nat} (hx : fix x2 ≤ 4) (k : Nat) {acc : Nat} (hacc : acc ≤ oneScaled) :
    |fix (sinHorner x2 k acc) - sinTail (fix x2) k (fix acc)| ≤ k * ulp := by
  induction k generalizing acc with
  | zero =>
    change |fix acc - _| ≤ _
    simp [sinTail_zero]
  | succ k ih =>
    have hone : 0 < oneScaled := by exact_mod_cast oneScaled_pos
    have hquot : acc * x2 / ((2 * k + 2) * (2 * k + 3) * oneScaled) ≤ oneScaled := by
      have hx2 : x2 ≤ 4 * oneScaled := by
        rw [fix, div_le_iff₀ oneScaled_pos] at hx
        exact_mod_cast hx
      refine Nat.div_le_of_le_mul ?_
      calc acc * x2 ≤ oneScaled * (4 * oneScaled) := Nat.mul_le_mul hacc hx2
        _ = 4 * oneScaled * oneScaled := by ring
        _ ≤ (2 * k + 2) * (2 * k + 3) * oneScaled * oneScaled := by
          gcongr
          nlinarith
    have hround := fix_mul_div_near acc x2 (k := (2 * k + 2) * (2 * k + 3)) (by positivity)
    have hstep : |fix (oneScaled - acc * x2 / ((2 * k + 2) * (2 * k + 3) * oneScaled)) -
        (1 - fix acc * fix x2 / ((2 * k + 2) * (2 * k + 3) : Nat))| ≤ ulp := by
      rw [fix_sub hquot, fix_oneScaled, sub_sub_sub_cancel_left, abs_sub_comm]
      exact hround
    have hrest := ih (Nat.sub_le oneScaled (acc * x2 / ((2 * k + 2) * (2 * k + 3) * oneScaled)))
    have hlip := (sinTail_lipschitz (fix_nonneg x2) hx k _ _).trans hstep
    rw [sinHorner_succ, sinTail_succ]
    calc _ ≤ k * ulp + ulp := (abs_sub_le _ _ _).trans (add_le_add hrest hlip)
      _ = (k + 1 : Nat) * ulp := by push_cast; ring

theorem sinHorner_le (x2 k : Nat) {acc : Nat} (hacc : acc ≤ oneScaled) : sinHorner x2 k acc ≤ oneScaled := by
  induction k generalizing acc with
  | zero => exact hacc
  | succ k ih =>
    rw [sinHorner_succ]
    exact ih (Nat.sub_le _ _)

/-! ### The remainder of the series -/

/-- The imaginary part of the exponential series at `x i` is the sine series. -/
theorem im_expSeries (x : ℝ) (n : Nat) :
    (∑ m ∈ Finset.range (2 * n), ((x : ℂ) * Complex.I) ^ m / m.factorial).im =
      (∑ j ∈ Finset.range n, (-x ^ 2) ^ j / (2 * j + 1).factorial) * x := by
  induction n with
  | zero => simp
  | succ n ih =>
    have hsq : ((x : ℂ) * Complex.I) ^ (2 * n) = (((-x ^ 2) ^ n : ℝ) : ℂ) := by
      rw [pow_mul, mul_pow, Complex.I_sq]
      push_cast
      ring
    have heven : (((x : ℂ) * Complex.I) ^ (2 * n) / (2 * n).factorial).im = 0 := by
      rw [hsq, ← Complex.ofReal_natCast, ← Complex.ofReal_div, Complex.ofReal_im]
    have hodd : (((x : ℂ) * Complex.I) ^ (2 * n + 1) / (2 * n + 1).factorial).im =
        (-x ^ 2) ^ n / (2 * n + 1).factorial * x := by
      rw [pow_succ, hsq, ← mul_assoc, ← Complex.ofReal_mul, mul_div_right_comm, ← Complex.ofReal_natCast,
        ← Complex.ofReal_div, Complex.im_ofReal_mul, Complex.I_im]
      ring
    rw [show 2 * (n + 1) = 2 * n + 1 + 1 by ring, Finset.sum_range_succ, Finset.sum_range_succ,
      Complex.add_im, Complex.add_im, ih, heven, hodd, Finset.sum_range_succ]
    ring

/-- The first 45 terms of the series. -/
theorem sinTail_near_sin {x : ℝ} (h0 : 0 ≤ x) (h2 : x ≤ 2) :
    |sinTail (x ^ 2) 44 1 * x - Real.sin x| ≤ 1 / 10 ^ 60 := by
  have hnorm : ‖(x : ℂ) * Complex.I‖ = x := by
    rw [norm_mul, Complex.norm_I, mul_one, Complex.norm_of_nonneg h0]
  have hbound := Complex.exp_bound' (x := (x : ℂ) * Complex.I) (n := 2 * 45) (by
    rw [hnorm]
    push_cast
    linarith)
  have him := (Complex.abs_im_le_norm _).trans hbound
  rw [hnorm, Complex.sub_im, im_expSeries, Complex.exp_ofReal_mul_I_im] at him
  have hsmall : x ^ (2 * 45) / ((2 * 45).factorial : ℝ) * 2 ≤ 1 / 10 ^ 60 :=
    calc x ^ (2 * 45) / ((2 * 45).factorial : ℝ) * 2 ≤ 2 ^ (2 * 45) / ((2 * 45).factorial : ℝ) * 2 := by gcongr
      _ ≤ 1 / 10 ^ 60 := by norm_num [Nat.factorial]
  rw [sinTail_one, abs_sub_comm]
  exact him.trans hsmall

/-! ### The number `pi` -/

theorem fix_piScaled_near : |fix piScaled - Real.pi| ≤ 2 / 10 ^ 20 := by
  have hlower := Real.pi_gt_d20
  have hupper := Real.pi_lt_d20
  have hmodel : |fix piScaled - 3.14159265358979323846| ≤ 1 / 10 ^ 20 := by
    rw [fix, piScaled, oneScaled, workBits, show 320 = 160 + 160 from rfl, pow_add, abs_le]
    constructor <;> norm_num
  rw [abs_le] at *
  constructor <;> linarith [hmodel.1, hmodel.2]

theorem ratPi_near : |((ratPi : Scalar) : ℝ) - Real.pi| ≤ 3 / 10 ^ 20 := by
  have hround := ofScaled_near piScaled
  have hscaled := fix_piScaled_near
  change |((ofScaled piScaled : Scalar) : ℝ) - _| ≤ _
  rw [abs_le] at *
  constructor <;> linarith [hround.1, hround.2, hscaled.1, hscaled.2]

/-! ### A quarter turn -/

/-- The scaled argument of the series. -/
theorem fix_sinArgument_near {v : Scalar} (h0 : 0 ≤ v) (h1 : v ≤ 1 / 4) :
    |fix (2 * (piScaled * scaled v / oneScaled)) - 2 * Real.pi * v| ≤ 1 / 10 ^ 19 := by
  have hv0 : (0 : ℝ) ≤ v := by exact_mod_cast h0
  have hv1 : (v : ℝ) ≤ 1 / 4 := by simpa using (Rat.cast_le (K := ℝ)).mpr h1
  have hulp := ulp_le
  have hpi := fix_piScaled_near
  have hpi4 : fix piScaled ≤ 4 := by linarith [(abs_le.mp hpi).2, Real.pi_lt_d2]
  have hprod := fix_mul_near piScaled (scaled v)
  have hscaled : |fix piScaled * (fix (scaled v) - v)| ≤ 4 * ulp := by
    rw [abs_mul, abs_of_nonneg (fix_nonneg _)]
    exact mul_le_mul hpi4 (fix_scaled_near h0) (abs_nonneg _) (by norm_num)
  have hpi' : |(fix piScaled - Real.pi) * v| ≤ 2 / 10 ^ 20 * (1 / 4) := by
    rw [abs_mul, abs_of_nonneg hv0]
    exact mul_le_mul hpi hv1 hv0 (by norm_num)
  rw [two_mul (piScaled * scaled v / oneScaled), fix_add]
  rw [abs_le] at *
  constructor <;> nlinarith [hprod.1, hprod.2, hscaled.1, hscaled.2, hpi'.1, hpi'.2]

/-- Near squares have near roots. -/
theorem abs_sqrt_sub_le {w x e : ℝ} (hx : 0 ≤ x) (he : 0 ≤ e) (hw : 0 ≤ w) (h : |w - x ^ 2| ≤ e ^ 2) :
    |√w - x| ≤ e := by
  have hsqrt := Real.sqrt_nonneg w
  have hdiff : |√w - x| ≤ |√w + x| := by
    rw [abs_of_nonneg (add_nonneg hsqrt hx)]
    exact abs_le.mpr ⟨by linarith, by linarith⟩
  refine abs_le_of_sq_le_sq ?_ he
  calc (√w - x) ^ 2 = |√w - x| * |√w - x| := by rw [← sq, sq_abs]
    _ ≤ |√w + x| * |√w - x| := mul_le_mul_of_nonneg_right hdiff (abs_nonneg _)
    _ = |w - x ^ 2| := by rw [← abs_mul, ← sq_sub_sq, Real.sq_sqrt hw]
    _ ≤ e ^ 2 := h

theorem sinQuarter_near {v : Scalar} (h0 : 0 ≤ v) (h1 : v ≤ 1 / 4) :
    |((sinQuarter v : Scalar) : ℝ) - Real.sin (2 * Real.pi * v)| ≤ 1 / 10 ^ 18 := by
  have hv0 : (0 : ℝ) ≤ v := by exact_mod_cast h0
  have hv1 : (v : ℝ) ≤ 1 / 4 := by simpa using (Rat.cast_le (K := ℝ)).mpr h1
  have hpi := Real.pi_pos
  have hpi' := Real.pi_lt_d2
  have hsin0 : 0 ≤ Real.sin (2 * Real.pi * v) := Real.sin_nonneg_of_nonneg_of_le_pi (by positivity) (by nlinarith)
  refine clamp_near (by norm_num) (by exact_mod_cast hsin0) (by exact_mod_cast Real.sin_le_one _) ?_
  have harg := fix_sinArgument_near h0 h1
  have hulp := ulp_le
  generalize 2 * (piScaled * scaled v / oneScaled) = x at *
  have hx0 := fix_nonneg x
  have hx2 : fix x ≤ 19 / 10 := by nlinarith [(abs_le.mp harg).2]
  have hsquare := fix_mul_near x x
  generalize x * x / oneScaled = x2 at *
  have hroot : |√(fix x2) - fix x| ≤ 1 / 10 ^ 30 := by
    refine abs_sqrt_sub_le hx0 (by norm_num) (fix_nonneg x2) ?_
    rw [sq]
    exact hsquare.trans (hulp.trans (by norm_num))
  have hw := Real.sq_sqrt (fix_nonneg x2)
  have hy0 := Real.sqrt_nonneg (fix x2)
  generalize √(fix x2) = y at *
  have hy2 : y ≤ 2 := by linarith [(abs_le.mp hroot).2]
  have hhorner := sinHorner_near (x2 := x2) (by nlinarith) 44 le_rfl
  rw [fix_oneScaled, ← hw] at hhorner
  have hseries := sinTail_near_sin hy0 hy2
  have hround := ofScaled_near (sinHorner x2 44 oneScaled * x / oneScaled)
  have hprod := fix_mul_near (sinHorner x2 44 oneScaled) x
  have hsin := Real.abs_sin_sub_sin_le y (2 * Real.pi * v)
  have hle : fix (sinHorner x2 44 oneScaled) ≤ 1 := fix_oneScaled ▸ fix_le_fix_iff.mpr (sinHorner_le x2 44 le_rfl)
  have hnonneg := fix_nonneg (sinHorner x2 44 oneScaled)
  have hscaled : |(fix (sinHorner x2 44 oneScaled) - sinTail (y ^ 2) 44 1) * y| ≤ 44 * ulp * 2 := by
    rw [abs_mul, abs_of_nonneg hy0]
    exact mul_le_mul hhorner hy2 hy0 (by linarith [ulp_pos])
  have hshift : |fix (sinHorner x2 44 oneScaled) * (y - fix x)| ≤ 1 / 10 ^ 30 := by
    rw [abs_mul, abs_of_nonneg hnonneg]
    exact (mul_le_of_le_one_left (abs_nonneg _) hle).trans hroot
  have hangle : |y - 2 * Real.pi * v| ≤ 1 / 10 ^ 30 + 1 / 10 ^ 19 :=
    (abs_sub_le y (fix x) _).trans (add_le_add hroot harg)
  replace hsin := hsin.trans hangle
  clear hhorner hroot harg hangle hsquare
  rw [abs_le] at *
  constructor <;> linarith [hround.1, hround.2, hprod.1, hprod.2, hsin.1, hsin.2, hscaled.1, hscaled.2,
    hshift.1, hshift.2, hseries.1, hseries.2]

/-! ### Every angle -/

theorem sinHalf_near {u : Scalar} (h0 : 0 ≤ u) (h1 : u ≤ 1 / 2) :
    |((sinHalf u : Scalar) : ℝ) - Real.sin (2 * Real.pi * u)| ≤ 1 / 10 ^ 18 := by
  unfold sinHalf
  split_ifs with h
  · exact sinQuarter_near h0 h
  · have hnear := sinQuarter_near (v := 1 / 2 - u) (by linarith) (by linarith)
    have hangle : 2 * Real.pi * ((1 / 2 - u : Scalar) : ℝ) = Real.pi - 2 * Real.pi * u := by
      push_cast
      ring
    rwa [hangle, Real.sin_pi_sub] at hnear

theorem sinTurns_near (t : Scalar) :
    |((sinTurns t : Scalar) : ℝ) - Real.sin (2 * Real.pi * t)| ≤ 1 / 10 ^ 18 := by
  have hperiod : Real.sin (2 * Real.pi * t) = Real.sin (2 * Real.pi * ((frac t : Scalar) : ℝ)) := by
    have ht : (t : ℝ) = ((frac t : Scalar) : ℝ) + (⌊t⌋ : ℝ) := by exact_mod_cast (Int.fract_add_floor t).symm
    rw [ht, mul_add, mul_comm (2 * Real.pi) (⌊t⌋ : ℝ), Real.sin_add_int_mul_two_pi]
  have h0 := frac_nonneg t
  have h1 := frac_lt_one t
  rw [hperiod]
  unfold sinTurns
  simp only
  split_ifs with h
  · exact sinHalf_near h0 h.le
  · have hnear := sinHalf_near (u := frac t - 1 / 2) (by linarith) (by linarith)
    have hangle : 2 * Real.pi * ((frac t - 1 / 2 : Scalar) : ℝ) =
        2 * Real.pi * ((frac t : Scalar) : ℝ) - Real.pi := by
      push_cast
      ring
    rw [hangle, Real.sin_sub_pi, sub_neg_eq_add] at hnear
    rwa [Rat.cast_neg, ← neg_add', abs_neg]

theorem cosTurns_near (t : Scalar) :
    |((sinTurns (t + 1 / 4) : Scalar) : ℝ) - Real.cos (2 * Real.pi * t)| ≤ 1 / 10 ^ 18 := by
  have hnear := sinTurns_near (t + 1 / 4)
  have hangle : 2 * Real.pi * ((t + 1 / 4 : Scalar) : ℝ) = 2 * Real.pi * t + Real.pi / 2 := by
    push_cast
    ring
  rwa [hangle, Real.sin_add_pi_div_two] at hnear

/-- Settles O57: the series on a quarter turn, and the symmetries of the sine. -/
theorem sineIsTheRealSine : Obligations.SineIsTheRealSine := by
  refine ⟨ratPi_near.trans (by norm_num), fun t => ⟨?_, ?_⟩⟩
  · rw [std_sin_turns]
    exact (sinTurns_near t).trans (by norm_num)
  · rw [std_cos_turns]
    exact (cosTurns_near t).trans (by norm_num)

end Sys2Proof.Machine
end

section
/-! SUPPORT. The stability of the biquad at every cutoff and resonance (42_filter.md R163, R164, R170). -/

namespace Sys2Proof.Machine

/-! ### Quadratics with their roots inside the unit circle -/

/-- The stability triangle: a root of modulus 1 or more is no real one, as the polynomial is positive there,
and no other, as the product of the two is `c`. -/
theorem norm_root_lt_one {b c : ℝ} {z : ℂ} (hb : |b| < 1 + c) (hc : c < 1)
    (hz : z ^ 2 + (b : ℂ) * z + (c : ℂ) = 0) : ‖z‖ < 1 := by
  have hre : z.re ^ 2 - z.im ^ 2 + b * z.re + c = 0 := by
    have h := congrArg Complex.re hz
    simp [sq] at h
    linarith
  have him : z.im * (2 * z.re + b) = 0 := by
    have h := congrArg Complex.im hz
    simp [sq] at h
    linarith
  have hnorm : ‖z‖ ^ 2 < 1 := by
    rw [Complex.sq_norm, Complex.normSq_apply]
    rcases mul_eq_zero.mp him with hreal | hpair
    · rw [hreal] at hre ⊢
      have hx : |z.re| < 1 := by
        by_contra! hge
        have hbx := neg_abs_le (b * z.re)
        rw [abs_mul] at hbx
        nlinarith [sq_abs z.re, mul_nonneg (sub_nonneg.mpr hge) (by linarith : 0 ≤ |z.re| - c),
          mul_lt_mul_of_pos_right hb (by linarith : 0 < |z.re|)]
      nlinarith [abs_lt.mp hx, sq_abs z.re]
    · rw [show b = -2 * z.re by linarith] at hre
      linarith
  nlinarith [norm_nonneg z]

/-! ### The biquad's coefficients -/

/-- R165's coefficients lie in the stability triangle away from the angles 0 and half a turn. -/
theorem biquadOf_stable {cs sn q : Scalar} (hs : 0 < sn) (hc : |cs| < 1) (hq : 0 < q) :
    |(biquadOf cs sn q).a1| < 1 + (biquadOf cs sn q).a2 ∧ (biquadOf cs sn q).a2 < 1 := by
  have halpha : 0 < sn / (2 * q) := by positivity
  change |-2 * cs / (1 + sn / (2 * q))| < 1 + (1 - sn / (2 * q)) / (1 + sn / (2 * q)) ∧
    (1 - sn / (2 * q)) / (1 + sn / (2 * q)) < 1
  generalize sn / (2 * q) = alpha at *
  have hnorm : 0 < 1 + alpha := by linarith
  constructor
  · rw [abs_div, abs_of_pos hnorm, one_add_div hnorm.ne', div_lt_div_iff_of_pos_right hnorm, abs_mul,
      abs_neg, abs_two]
    linarith
  · rw [div_lt_one hnorm]
    linarith

/-! ### The angles of the cutoff range -/

/-- The sine is concave: it is above its chord up to a quarter turn. -/
theorem four_mul_le_sin {x : ℝ} (h0 : 0 ≤ x) (h1 : x ≤ 1 / 4) : 4 * x ≤ Real.sin (2 * Real.pi * x) := by
  have hpi := Real.pi_pos
  have h := Real.mul_le_sin (x := 2 * Real.pi * x) (by positivity) (by nlinarith)
  have hchord : 2 / Real.pi * (2 * Real.pi * x) = 4 * x := by
    field_simp
    ring
  rwa [hchord] at h

theorem sin_of_cutoff {x : ℝ} (h0 : 1 / 10000 ≤ x) (h1 : x ≤ 49 / 100) :
    4 / 10000 ≤ Real.sin (2 * Real.pi * x) := by
  rcases le_total x (1 / 4) with h | h
  · linarith [four_mul_le_sin (by linarith) h]
  · have hmirror := four_mul_le_sin (x := 1 / 2 - x) (by linarith) (by linarith)
    rw [show 2 * Real.pi * (1 / 2 - x) = Real.pi - 2 * Real.pi * x by ring, Real.sin_pi_sub] at hmirror
    linarith

theorem abs_cos_of_cutoff {x : ℝ} (h0 : 1 / 10000 ≤ x) (h1 : x ≤ 49 / 100) :
    |Real.cos (2 * Real.pi * x)| ≤ 1 - 8 / 10 ^ 8 := by
  have hsin := sin_of_cutoff h0 h1
  refine abs_le_of_sq_le_sq ?_ (by norm_num)
  nlinarith [Real.sin_sq_add_cos_sq (2 * Real.pi * x)]

theorem sin_cos_of_normalizedCutoff {nc : Scalar} (h0 : 1 / 10000 ≤ nc) (h1 : nc ≤ 49 / 100) :
    0 < std.num.sin (2 * std.num.pi * nc) ∧ |std.num.cos (2 * std.num.pi * nc)| < 1 := by
  have h0' : (1 / 10000 : ℝ) ≤ nc := by simpa using (Rat.cast_le (K := ℝ)).mpr h0
  have h1' : (nc : ℝ) ≤ 49 / 100 := by simpa using (Rat.cast_le (K := ℝ)).mpr h1
  have hsin := sin_of_cutoff h0' h1'
  have hcos := abs_cos_of_cutoff h0' h1'
  have hsinNear := sinTurns_near nc
  have hcosNear := cosTurns_near nc
  rw [std_sin_turns, std_cos_turns]
  constructor
  · rw [← Rat.cast_pos (K := ℝ)]
    linarith [(abs_le.mp hsinNear).1]
  · rw [← Rat.cast_lt (K := ℝ), Rat.cast_abs, Rat.cast_one]
    have htri := abs_sub_abs_le_abs_sub ((sinTurns (nc + 1 / 4) : Scalar) : ℝ) (Real.cos (2 * Real.pi * nc))
    linarith

/-! ### The filter's mappings -/

theorem normalizedCutoff_eq (note : Fin 128) (cutoffParam rate : Scalar) :
    normalizedCutoff std note cutoffParam rate = max (1 / 10000) (min (440 * std.num.pow2
      ((((note.val : Scalar) - 6) + (124 - ((note.val : Scalar) - 6)) * (1 - (1 - cutoffParam) ^ 2) - 69) / 12) /
        rate) (49 / 100)) := by
  have hpitch : lerp (std.invPower2 cutoffParam) ((note.val : Scalar) - 6) 124 =
      ((note.val : Scalar) - 6) + (124 - ((note.val : Scalar) - 6)) * (1 - (1 - cutoffParam) ^ 2) := by
    rw [sq]
    rfl
  rw [← hpitch]
  exact clamp_eq_max_min _ _ _ (by norm_num [std, standard])

/-- Settles O49: the sine is positive and the cosine below 1 at every cutoff, and the coefficients are then in
the stability triangle. -/
theorem filterPolesLieInsideTheUnitCircle : Obligations.FilterPolesLieInsideTheUnitCircle := by
  rintro note cutoffParam peakParam rate _ nc q z - - hpeak - - rfl hnc rfl
  refine ⟨(normalizedCutoff_eq note cutoffParam rate).trans hnc.symm, resonanceQ_eq peakParam, fun hz => ?_⟩
  have hlow : 1 / 10000 ≤ nc := hnc ▸ le_max_left _ _
  have hhigh : nc ≤ 49 / 100 := hnc ▸ max_le (by norm_num) (min_le_right _ _)
  obtain ⟨hsin, hcos⟩ := sin_cos_of_normalizedCutoff hlow hhigh
  obtain ⟨ha1, ha2⟩ := biquadOf_stable hsin hcos (q := 1 / 2 + peakParam * (4 / 10) * (39 / 2)) (by positivity)
  refine norm_root_lt_one (b := ((biquadOf _ _ _).a1 : Scalar)) (c := ((biquadOf _ _ _).a2 : Scalar))
    (by exact_mod_cast ha1) (by exact_mod_cast ha2) ?_
  rw [Complex.ofReal_ratCast, Complex.ofReal_ratCast]
  exact hz

end Sys2Proof.Machine
end

section
/-! SUPPORT. The highpass coefficient (42_filter.md R162): the executable exponential is below 1 at every
argument that a rate below `2 ^ 128` gives, and near the real one. -/

namespace Sys2Proof.Machine

/-! ### The power of two is monotone in the unit interval -/

theorem scaled_mono {a b : Scalar} (ha : 0 ≤ a) (hab : a ≤ b) : scaled a ≤ scaled b := by
  have hfloor {x : Scalar} (hx : 0 ≤ x) : scaled x = ⌊(oneScaled : Scalar) * x⌋₊ := by
    have hnum : ((x.num.toNat : Nat) : Scalar) = x.num := by
      exact_mod_cast congrArg (Int.cast : Int → Scalar) (Int.toNat_of_nonneg (Rat.num_nonneg.mpr hx))
    rw [scaled, ← Nat.floor_div_eq_div (K := Scalar), Nat.cast_mul, hnum, mul_div_assoc, Rat.num_div_den]
  rw [hfloor ha, hfloor (ha.trans hab)]
  exact Nat.floor_mono (mul_le_mul_of_nonneg_left hab (Nat.cast_nonneg _))

theorem expHorner_mono {x y : Nat} (hxy : x ≤ y) (k : Nat) {acc acc' : Nat} (h : acc ≤ acc') :
    expHorner x k acc ≤ expHorner y k acc' := by
  induction k generalizing acc acc' with
  | zero => exact h
  | succ k ih =>
    rw [expHorner_succ, expHorner_succ]
    exact ih (Nat.add_le_add_left (Nat.div_le_div_right (Nat.mul_le_mul h hxy)) _)

theorem ofScaled_mono {m n : Nat} (h : m ≤ n) : ofScaled m ≤ ofScaled n := by
  unfold ofScaled
  rw [Rat.mkRat_eq_div, Rat.mkRat_eq_div]
  refine div_le_div_of_nonneg_right ?_ (Nat.cast_nonneg _)
  exact_mod_cast Nat.div_le_div_right (Nat.add_le_add_left h _)

theorem exp2Frac_mono {r s : Scalar} (hr : 0 ≤ r) (hrs : r ≤ s) : exp2Frac r ≤ exp2Frac s :=
  clamp_mono (by norm_num) (ofScaled_mono (expHorner_mono
    (Nat.div_le_div_right (Nat.mul_le_mul_left _ (scaled_mono hr hrs))) _ le_rfl))

/-- Just below 1 the rounding does not yet reach 2. -/
theorem exp2Frac_near_one : exp2Frac (1 - 1 / 2 ^ 122) < 2 := by
  decide +kernel

theorem ratPow2_lt_one {x : Scalar} (hx : x ≤ -(1 / 2 ^ 122)) : ratPow2 x < 1 := by
  rcases le_or_gt x (-1) with h | h
  · refine (ratPow2_le (n := -1) (by exact_mod_cast h)).trans_lt ?_
    rw [exp2Int_eq_zpow]
    norm_num
  · have hneg : x < 0 := hx.trans_lt (by norm_num)
    have hfloor : ⌊x⌋ = -1 := Int.floor_eq_iff.mpr ⟨by push_cast; linarith, by push_cast; linarith⟩
    have hfrac : frac x = x + 1 := by
      rw [frac_eq, Int.fract, hfloor]
      push_cast
      ring
    have hmono := exp2Frac_mono (r := x + 1) (s := 1 - 1 / 2 ^ 122) (by linarith) (by linarith)
    rw [ratPow2, hfloor, hfrac, exp2Int_eq_zpow, zpow_neg_one]
    linarith [exp2Frac_near_one]

theorem ratExp_lt_one {x : Scalar} (hx : x ≤ -(1 / 2 ^ 122)) : ratExp x < 1 := by
  have hl : 0 < ofScaled ln2Scaled ∧ ofScaled ln2Scaled ≤ 1 := by decide +kernel
  refine ratPow2_lt_one ?_
  split_ifs
  · norm_num
  · rw [div_le_iff₀ hl.1]
    nlinarith

/-! ### The exponential against the real one -/

theorem ofScaled_ln2Scaled_near : |((ofScaled ln2Scaled : Scalar) : ℝ) - Real.log 2| ≤ 201 / 10 ^ 12 := by
  have hround := ofScaled_near ln2Scaled
  have hscaled := fix_ln2Scaled_near
  rw [abs_le] at *
  constructor <;> linarith [hround.1, hround.2, hscaled.1, hscaled.2]

theorem mul_exp_neg_half_le_one (t : ℝ) : t * Real.exp (-(t / 2)) ≤ 1 := by
  have hquarter := Real.add_one_le_exp (t / 4)
  have hhalf : Real.exp (t / 2) = Real.exp (t / 4) * Real.exp (t / 4) := by
    rw [← Real.exp_add]
    ring_nf
  rw [Real.exp_neg, ← div_eq_mul_inv, div_le_one (Real.exp_pos _), hhalf]
  rcases le_total t 0 with ht | ht
  · exact ht.trans (by positivity)
  · nlinarith [sq_nonneg (t / 4 - 1)]

/-- A small relative error in the argument of a decaying exponential. -/
theorem exp_neg_near {a b t e : ℝ} (he : 0 ≤ e) (ha : t / 2 ≤ a) (hb : t / 2 ≤ b)
    (hab : |a - b| ≤ e * t) : |Real.exp (-a) - Real.exp (-b)| ≤ e := by
  wlog hle : a ≤ b generalizing a b
  · rw [abs_sub_comm]
    exact this hb ha (abs_sub_comm a b ▸ hab) (le_of_not_ge hle)
  have hmono : Real.exp (-b) ≤ Real.exp (-a) := Real.exp_le_exp.mpr (by linarith)
  have hsplit : Real.exp (-b) = Real.exp (-a) * Real.exp (-(b - a)) := by
    rw [← Real.exp_add]
    ring_nf
  have hlin := Real.add_one_le_exp (-(b - a))
  have hgap : b - a ≤ e * t := by linarith [(abs_le.mp hab).1]
  rw [abs_of_nonneg (sub_nonneg.mpr hmono)]
  calc Real.exp (-a) - Real.exp (-b) = Real.exp (-a) * (1 - Real.exp (-(b - a))) := by rw [hsplit]; ring
    _ ≤ Real.exp (-(t / 2)) * (e * t) :=
      mul_le_mul (Real.exp_le_exp.mpr (by linarith)) (by linarith)
        (sub_nonneg.mpr (Real.exp_le_one_iff.mpr (by linarith))) (Real.exp_pos _).le
    _ = e * (t * Real.exp (-(t / 2))) := by ring
    _ ≤ e := mul_le_of_le_one_right he (mul_exp_neg_half_le_one t)

/-- Beyond the bound at which the executable exponential is held. -/
theorem exp_neg_le_of_large {x : ℝ} (hx : 700 ≤ x) : Real.exp (-x) ≤ 1 / 10 ^ 12 := by
  have hsixth := Real.add_one_le_exp (x / 6)
  have hpow : Real.exp x = Real.exp (x / 6) ^ 6 := by
    rw [← Real.exp_nat_mul]
    ring_nf
  rw [Real.exp_neg, ← one_div, hpow]
  refine one_div_le_one_div_of_le (by norm_num) ?_
  calc (10 : ℝ) ^ 12 ≤ 117 ^ 6 := by norm_num
    _ ≤ Real.exp (x / 6) ^ 6 := pow_le_pow_left₀ (by norm_num) (by linarith) 6

theorem ratPow2_exp_near {x : Scalar} (hx : 0 ≤ x) :
    |((ratPow2 (-x / ofScaled ln2Scaled) : Scalar) : ℝ) - Real.exp (-(x : ℝ))| ≤ 8 / 10 ^ 10 := by
  have hx' : (0 : ℝ) ≤ x := by exact_mod_cast hx
  have hln := ofScaled_ln2Scaled_near
  have hlog := Real.log_two_gt_d9
  have hlog' := Real.log_two_lt_d9
  have hnear := ratPow2_near (-x / ofScaled ln2Scaled)
  push_cast at hnear
  generalize ((ofScaled ln2Scaled : Scalar) : ℝ) = l at *
  have hl : 69 / 100 ≤ l ∧ l ≤ 7 / 10 := by
    rw [abs_le] at hln
    constructor <;> linarith
  have hl0 : 0 < l := by linarith
  have hpow : (2 : ℝ) ^ (-(x : ℝ) / l) = Real.exp (-(Real.log 2 / l * x)) := by
    rw [Real.rpow_def_of_pos two_pos]
    ring_nf
  have hratio : |Real.log 2 / l - 1| ≤ 3 / 10 ^ 10 := by
    rw [div_sub_one hl0.ne', abs_div, abs_of_pos hl0, div_le_iff₀ hl0, abs_sub_comm]
    linarith
  have hexp : |Real.exp (-(Real.log 2 / l * x)) - Real.exp (-(x : ℝ))| ≤ 3 / 10 ^ 10 := by
    refine exp_neg_near (t := x) (by norm_num) ?_ (by linarith) ?_
    · rw [abs_le] at hratio
      nlinarith
    · rw [← sub_one_mul, abs_mul, abs_of_nonneg hx']
      exact mul_le_mul_of_nonneg_right hratio hx'
  have hone : Real.exp (-(Real.log 2 / l * x)) ≤ 1 := by
    rw [Real.exp_le_one_iff, neg_nonpos]
    positivity
  rw [hpow] at hnear
  rw [abs_le] at *
  constructor <;> linarith [hnear.1, hnear.2, hexp.1, hexp.2]

theorem ratExp_near {x : Scalar} (hx : 0 ≤ x) :
    |((ratExp (-x) : Scalar) : ℝ) - Real.exp (-(x : ℝ))| ≤ 8 / 10 ^ 10 := by
  unfold ratExp
  simp only
  split_ifs with h
  · have hl : 7 / 10 * 1000 ≤ 1024 * ofScaled ln2Scaled ∧ 0 < ofScaled ln2Scaled := by decide +kernel
    rw [div_lt_iff₀ hl.2] at h
    have hlarge : (700 : ℝ) ≤ x := by
      have : (700 : Scalar) ≤ x := by linarith
      exact_mod_cast this
    have hexp := exp_neg_le_of_large hlarge
    have hheld : ratPow2 (-1024) ≤ 1 / 10 ^ 12 := by
      refine (ratPow2_le (n := -40) (by norm_num)).trans ?_
      rw [exp2Int_eq_zpow]
      norm_num
    have hheld' : ((ratPow2 (-1024) : Scalar) : ℝ) ≤ 1 / 10 ^ 12 := by
      simpa using (Rat.cast_le (K := ℝ)).mpr hheld
    have hpos : (0 : ℝ) < ((ratPow2 (-1024) : Scalar) : ℝ) := by exact_mod_cast ratPow2_pos _
    have hpos' := Real.exp_pos (-(x : ℝ))
    rw [abs_le]
    constructor <;> linarith
  · exact ratPow2_exp_near hx

/-! ### The coefficient -/

theorem std_hpCoef (rate : Scalar) : std.hpCoef 40 rate = 1 - ratExp (-(2 * ratPi * 40 / rate)) := rfl

/-- The argument of the exponential, with the model's `pi` and with the real one. -/
theorem exp_hpArgument_near {rate : Scalar} (h : 0 < rate) :
    |Real.exp (-((2 * ratPi * 40 / rate : Scalar) : ℝ)) - Real.exp (-(2 * Real.pi * 40 / (rate : ℝ)))| ≤
      1 / 10 ^ 19 := by
  have hrate : (0 : ℝ) < rate := by exact_mod_cast h
  have hpi := Real.pi_gt_three
  have hnear := ratPi_near
  push_cast
  generalize ((ratPi : Scalar) : ℝ) = p at *
  have hp : 3 / 2 ≤ p := by linarith [(abs_le.mp hnear).1]
  have ht : (0 : ℝ) < 80 / rate := by positivity
  have hp80 : 2 * p * 40 / (rate : ℝ) = p * (80 / rate) := by ring
  have hpi80 : 2 * Real.pi * 40 / (rate : ℝ) = Real.pi * (80 / rate) := by ring
  rw [hp80, hpi80]
  refine exp_neg_near (t := 80 / rate) (by norm_num) (by nlinarith) (by nlinarith) ?_
  rw [← sub_mul, abs_mul, abs_of_pos ht]
  exact mul_le_mul_of_nonneg_right (hnear.trans (by norm_num)) ht.le

/-- Settles O11: the exponential is positive, below 1 at the argument, and near the real one. -/
theorem highpassCoefficientIsAFraction : Obligations.HighpassCoefficientIsAFraction := by
  intro rate hrate
  have hpi : (3 : Scalar) ≤ ratPi := by decide +kernel
  have hargPos : 0 ≤ 2 * ratPi * 40 / rate := by positivity
  rw [std_hpCoef]
  refine ⟨?below, fun hlt => ?above, ?near⟩
  case below => exact sub_lt_self 1 (ratPow2_pos _)
  case above =>
    refine sub_pos.mpr (ratExp_lt_one (neg_le_neg ?_))
    rw [div_le_div_iff₀ (by positivity) hrate]
    norm_num at hlt ⊢
    linarith
  case near =>
    have hexp := ratExp_near hargPos
    have harg := exp_hpArgument_near hrate
    rw [Rat.cast_sub, Rat.cast_one, sub_sub_sub_cancel_left, abs_sub_comm]
    exact (abs_sub_le _ _ _).trans ((add_le_add hexp harg).trans (by norm_num))

end Sys2Proof.Machine
end
